-- ==== Sys2Proof/Word.lean ====
section
/-! DEFINITION. The widths of the machine's values: bytes, 16-bit words, 12-bit addresses in instructions, and the
four-bit indexes that name a register or a row count (00_scope.md R9, R10). -/

namespace Sys2Proof

/-- An 8-bit value: a general register, a timer, a byte of memory, `KK` (10_state.md R30, 20_memory.md R70). -/
abbrev Byte := BitVec 8

/-- A 16-bit value: an instruction word, `I`, `pc`, a stack slot (10_state.md R30, 30_encoding.md R100). -/
abbrev Word := BitVec 16

/-- The 12-bit address field `NNN` of an instruction word (30_encoding.md R102). -/
abbrev Addr12 := BitVec 12

/-- The index of a general register, 0..15 (10_state.md R31, R32: an index out of range cannot occur). -/
abbrev RegIdx := Fin 16

/-- A four-bit count, 0..15: the sprite height `N` (30_encoding.md R104). -/
abbrev Nibble := Fin 16

end Sys2Proof
end

