-- ==== Sys2Proof/Config.lean ====
section
/-! DEFINITION. The fixed parameters of the hardware (00_scope.md R5), its four open parameters (R6) as plain data, and the one
free input, the random byte of CXKK (R7), as an opaque constant. -/

namespace Sys2Proof

/-! ## Fixed parameters (00_scope.md R5) -/

/-- `MEM_SIZE`: bytes in the memory bank. -/
abbrev memSize : Nat := 4095
/-- `MEM_TOP`: the highest valid byte address. -/
abbrev memTop : Nat := 0xFFE
/-- `GLYPH_END`: the last byte of the glyph table, which begins at 0. -/
abbrev glyphEnd : Nat := 0x04F
/-- `PROG_BASE`: where the program image is copied, and the initial `pc`. -/
abbrev progBase : Nat := 0x200
/-- `JUMP_LO`: the lowest legal control-transfer target. -/
abbrev jumpLo : Nat := 0x200
/-- `JUMP_HI`: the highest legal control-transfer target. -/
abbrev jumpHi : Nat := 0xFFE
/-- `DISP_W`: display columns. -/
abbrev dispW : Nat := 64
/-- `DISP_H`: display rows. -/
abbrev dispH : Nat := 32

/-! ## Open parameters (00_scope.md R6) -/

/-- `SHIFT_SRC`: which register 8XY6 and 8XYE shift (D10). -/
inductive ShiftSrc where
  | vx
  | vy
  deriving DecidableEq, Repr

/-- `SYS_POLICY`: what 0NNN other than 00E0 and 00EE does (D9). -/
inductive SysPolicy where
  | fault
  | nop
  deriving DecidableEq, Repr

/-- `GLYPH_WRITE`: whether a store into the glyph table is refused or performed (D5). -/
inductive GlyphWrite where
  | fault
  | allow
  deriving DecidableEq, Repr

/-- The four open parameters of 00_scope.md R6. The machine carries them in `State.cfg` and no step or host event changes them
(DESIGN CHOICE, notes/assumptions/1.md), so a statement about every state holds for every setting. -/
structure Config where
  shiftSrc : ShiftSrc
  /-- `STRICT_ALIGN`: whether an odd control-transfer target raises UnevenAddress (D7). -/
  strictAlign : Bool
  sysPolicy : SysPolicy
  glyphWrite : GlyphWrite
  deriving DecidableEq, Repr

/-- The free input `rand8()` of 00_scope.md R7: the byte that the draw with number `k` consumes. It has no body, so nothing can be
proved of its value, and "a proof holds for every value" (DESIGN CHOICE of form, notes/assumptions/2.md). -/
opaque Config.freeByte : Nat → Byte

end Sys2Proof
end

