-- ==== Sys2Proof/Syntax.lean ====
section
/-! DEFINITION. The 35 instructions: one constructor for each row of spec/opcode_table.json (30_encoding.md R108), with the operands of
its shape (R103). -/

namespace Sys2Proof

/-- The tagged instruction variants the decoder yields (30_encoding.md R106, R108). `x` and `y` are the register fields `X` and `Y`,
`kk` the byte `KK`, `nnn` the address `NNN`, `n` the row count `N` (R102). -/
inductive Instr where
  /-- 0NNN SYS NNN (R215) -/
  | sys (nnn : Addr12)
  /-- 00E0 CLS (R251) -/
  | cls
  /-- 00EE RET (R213) -/
  | ret
  /-- 1NNN JP NNN (R211) -/
  | jp (nnn : Addr12)
  /-- 2NNN CALL NNN (R212) -/
  | call (nnn : Addr12)
  /-- 3XKK SE Vx, KK (R216) -/
  | seByte (x : RegIdx) (kk : Byte)
  /-- 4XKK SNE Vx, KK (R217) -/
  | sneByte (x : RegIdx) (kk : Byte)
  /-- 5XY0 SE Vx, Vy (R218) -/
  | seReg (x y : RegIdx)
  /-- 6XKK LD Vx, KK (R180) -/
  | ldByte (x : RegIdx) (kk : Byte)
  /-- 7XKK ADD Vx, KK (R181) -/
  | addByte (x : RegIdx) (kk : Byte)
  /-- 8XY0 LD Vx, Vy (R182) -/
  | ldReg (x y : RegIdx)
  /-- 8XY1 OR Vx, Vy (R183) -/
  | orReg (x y : RegIdx)
  /-- 8XY2 AND Vx, Vy (R184) -/
  | andReg (x y : RegIdx)
  /-- 8XY3 XOR Vx, Vy (R185) -/
  | xorReg (x y : RegIdx)
  /-- 8XY4 ADD Vx, Vy (R186) -/
  | addReg (x y : RegIdx)
  /-- 8XY5 SUB Vx, Vy (R187) -/
  | subReg (x y : RegIdx)
  /-- 8XY6 SHR Vx, Vy (R188) -/
  | shr (x y : RegIdx)
  /-- 8XY7 SUBN Vx, Vy (R189) -/
  | subn (x y : RegIdx)
  /-- 8XYE SHL Vx, Vy (R190) -/
  | shl (x y : RegIdx)
  /-- 9XY0 SNE Vx, Vy (R219) -/
  | sneReg (x y : RegIdx)
  /-- ANNN LD I, NNN (R160) -/
  | ldI (nnn : Addr12)
  /-- BNNN JP V0, NNN (R214) -/
  | jpV0 (nnn : Addr12)
  /-- CXKK RND Vx, KK (R194) -/
  | rnd (x : RegIdx) (kk : Byte)
  /-- DXYN DRW Vx, Vy, N (R252) -/
  | drw (x y : RegIdx) (n : Nibble)
  /-- EX9E SKP Vx (R233) -/
  | skp (x : RegIdx)
  /-- EXA1 SKNP Vx (R234) -/
  | sknp (x : RegIdx)
  /-- FX07 LD Vx, DT (R230) -/
  | ldVxDt (x : RegIdx)
  /-- FX0A LD Vx, K (R235) -/
  | ldVxK (x : RegIdx)
  /-- FX15 LD DT, Vx (R231) -/
  | ldDtVx (x : RegIdx)
  /-- FX18 LD ST, Vx (R232) -/
  | ldStVx (x : RegIdx)
  /-- FX1E ADD I, Vx (R161) -/
  | addI (x : RegIdx)
  /-- FX29 LD F, Vx (R162) -/
  | ldF (x : RegIdx)
  /-- FX33 LD B, Vx (R163) -/
  | ldB (x : RegIdx)
  /-- FX55 LD [I], Vx (R164) -/
  | ldMemVx (x : RegIdx)
  /-- FX65 LD Vx, [I] (R165) -/
  | ldVxMem (x : RegIdx)
  deriving DecidableEq, Repr

end Sys2Proof
end

