-- ==== Sys2Proof/Decode.lean ====
section
/-! DEFINITION. The operand codec, the decoder (30_encoding.md R102 to R107), the encoder from the same encodings, and the opcode map of
R108 as data. -/

namespace Sys2Proof

/-! ## Fields of the word (30_encoding.md R102; X and Y as 90_conflicts.md C2 resolves them) -/

/-- A four-bit slice as a register index or a row count. -/
def nibbleOf (b : BitVec 4) : Fin 16 := ⟨b.toNat, b.isLt⟩

/-- A register index or a row count as a four-bit slice. -/
def bitsOf (x : Fin 16) : BitVec 4 := BitVec.ofNat 4 x.val

/-- `O` = `w[15:12]`, the major opcode. -/
def fieldO (w : Word) : BitVec 4 := w.extractLsb' 12 4
/-- `X` = `w[11:8]`. -/
def fieldX (w : Word) : RegIdx := nibbleOf (w.extractLsb' 8 4)
/-- `Y` = `w[7:4]`. -/
def fieldY (w : Word) : RegIdx := nibbleOf (w.extractLsb' 4 4)
/-- `N` = `w[3:0]`. -/
def fieldN (w : Word) : BitVec 4 := w.extractLsb' 0 4
/-- `KK` = `w[7:0]`. -/
def fieldKK (w : Word) : Byte := w.extractLsb' 0 8
/-- `NNN` = `w[11:0]`. -/
def fieldNNN (w : Word) : Addr12 := w.extractLsb' 0 12

/-- The instruction word from its two bytes, big-endian: the byte at the lower address is `w[15:8]` (30_encoding.md R101). -/
def wordOfBytes (hi lo : Byte) : Word := hi ++ lo
/-- `w[15:8]`, the byte stored at the lower address. -/
def highByte (w : Word) : Byte := w.extractLsb' 8 8
/-- `w[7:0]`, the byte stored at the higher address. -/
def lowByte (w : Word) : Byte := w.extractLsb' 0 8

/-! ## The decoder -/

/-- Why bytes are no instruction. -/
inductive DecodeError where
  /-- No row of the opcode map matches the word (30_encoding.md R106, R110). -/
  | decodeFailure (w : Word)
  /-- Fewer than the two bytes every instruction has (30_encoding.md R100); the step never meets it, since it fetches two. -/
  | truncated (bytes : List Byte)
  deriving DecidableEq, Repr

/-- Group 8, by the full sub-nybble `N` (30_encoding.md R107: "0x8XY6 must decode as shift-right"). -/
def decodeGroup8 (w : Word) : Except DecodeError Instr :=
  match fieldN w with
  | 0x0#4 => .ok (.ldReg (fieldX w) (fieldY w))
  | 0x1#4 => .ok (.orReg (fieldX w) (fieldY w))
  | 0x2#4 => .ok (.andReg (fieldX w) (fieldY w))
  | 0x3#4 => .ok (.xorReg (fieldX w) (fieldY w))
  | 0x4#4 => .ok (.addReg (fieldX w) (fieldY w))
  | 0x5#4 => .ok (.subReg (fieldX w) (fieldY w))
  | 0x6#4 => .ok (.shr (fieldX w) (fieldY w))
  | 0x7#4 => .ok (.subn (fieldX w) (fieldY w))
  | 0xE#4 => .ok (.shl (fieldX w) (fieldY w))
  | _ => .error (.decodeFailure w)

/-- Group E, by `KK`. -/
def decodeGroupE (w : Word) : Except DecodeError Instr :=
  match fieldKK w with
  | 0x9E#8 => .ok (.skp (fieldX w))
  | 0xA1#8 => .ok (.sknp (fieldX w))
  | _ => .error (.decodeFailure w)

/-- Group F, by `KK`. -/
def decodeGroupF (w : Word) : Except DecodeError Instr :=
  match fieldKK w with
  | 0x07#8 => .ok (.ldVxDt (fieldX w))
  | 0x0A#8 => .ok (.ldVxK (fieldX w))
  | 0x15#8 => .ok (.ldDtVx (fieldX w))
  | 0x18#8 => .ok (.ldStVx (fieldX w))
  | 0x1E#8 => .ok (.addI (fieldX w))
  | 0x29#8 => .ok (.ldF (fieldX w))
  | 0x33#8 => .ok (.ldB (fieldX w))
  | 0x55#8 => .ok (.ldMemVx (fieldX w))
  | 0x65#8 => .ok (.ldVxMem (fieldX w))
  | _ => .error (.decodeFailure w)

/-- `Decode(w)` of 30_encoding.md R107: the two literal codes first, then the groups by `O`. Total; every word that no row selects is a
decode failure carrying the word (R110, exact sub-opcode masks by D21, notes/assumptions/9.md). -/
def decode (w : Word) : Except DecodeError Instr :=
  if w = 0x00E0#16 then .ok .cls
  else if w = 0x00EE#16 then .ok .ret
  else match fieldO w with
    | 0x0#4 => .ok (.sys (fieldNNN w))
    | 0x1#4 => .ok (.jp (fieldNNN w))
    | 0x2#4 => .ok (.call (fieldNNN w))
    | 0x3#4 => .ok (.seByte (fieldX w) (fieldKK w))
    | 0x4#4 => .ok (.sneByte (fieldX w) (fieldKK w))
    | 0x5#4 => if fieldN w = 0x0#4 then .ok (.seReg (fieldX w) (fieldY w)) else .error (.decodeFailure w)
    | 0x6#4 => .ok (.ldByte (fieldX w) (fieldKK w))
    | 0x7#4 => .ok (.addByte (fieldX w) (fieldKK w))
    | 0x8#4 => decodeGroup8 w
    | 0x9#4 => if fieldN w = 0x0#4 then .ok (.sneReg (fieldX w) (fieldY w)) else .error (.decodeFailure w)
    | 0xA#4 => .ok (.ldI (fieldNNN w))
    | 0xB#4 => .ok (.jpV0 (fieldNNN w))
    | 0xC#4 => .ok (.rnd (fieldX w) (fieldKK w))
    | 0xD#4 => .ok (.drw (fieldX w) (fieldY w) (nibbleOf (fieldN w)))
    | 0xE#4 => decodeGroupE w
    | 0xF#4 => decodeGroupF w
    | _ => .error (.decodeFailure w)

/-- Decoding from a list of bytes: the instruction and the bytes after it. -/
def decodeBytes : List Byte → Except DecodeError (Instr × List Byte)
  | hi :: lo :: rest =>
    match decode (wordOfBytes hi lo) with
    | .ok i => .ok (i, rest)
    | .error e => .error e
  | bytes => .error (.truncated bytes)

/-- The instruction an opcode-table word of `nbits` bits stands for: the word laid out high byte first, as the machine stores it. -/
def decodeTableWord (nbits w : Nat) : Option Instr :=
  match decodeBytes [highByte (BitVec.ofNat 16 (w % 2 ^ nbits)), lowByte (BitVec.ofNat 16 (w % 2 ^ nbits))] with
  | .ok (i, _) => some i
  | .error _ => none

/-! ## The encoder (the word layouts of 30_encoding.md R103) -/

/-- Format A: `OOOO NNNN NNNN NNNN`. -/
def wordA (o : BitVec 4) (nnn : Addr12) : Word := o ++ nnn
/-- Format XK: `OOOO XXXX KKKK KKKK`. -/
def wordXK (o : BitVec 4) (x : RegIdx) (kk : Byte) : Word := o ++ bitsOf x ++ kk
/-- Formats XY and XYN: `OOOO XXXX YYYY ssss`. -/
def wordXY (o : BitVec 4) (x y : RegIdx) (s : BitVec 4) : Word := o ++ bitsOf x ++ bitsOf y ++ s
/-- Format Xs: `OOOO XXXX ssss ssss`. -/
def wordXs (o : BitVec 4) (x : RegIdx) (s : Byte) : Word := o ++ bitsOf x ++ s

/-- The word of an instruction, from the encoding table of 30_encoding.md R108. -/
def encode : Instr → Word
  | .sys nnn => wordA 0x0 nnn
  | .cls => 0x00E0
  | .ret => 0x00EE
  | .jp nnn => wordA 0x1 nnn
  | .call nnn => wordA 0x2 nnn
  | .seByte x kk => wordXK 0x3 x kk
  | .sneByte x kk => wordXK 0x4 x kk
  | .seReg x y => wordXY 0x5 x y 0x0
  | .ldByte x kk => wordXK 0x6 x kk
  | .addByte x kk => wordXK 0x7 x kk
  | .ldReg x y => wordXY 0x8 x y 0x0
  | .orReg x y => wordXY 0x8 x y 0x1
  | .andReg x y => wordXY 0x8 x y 0x2
  | .xorReg x y => wordXY 0x8 x y 0x3
  | .addReg x y => wordXY 0x8 x y 0x4
  | .subReg x y => wordXY 0x8 x y 0x5
  | .shr x y => wordXY 0x8 x y 0x6
  | .subn x y => wordXY 0x8 x y 0x7
  | .shl x y => wordXY 0x8 x y 0xE
  | .sneReg x y => wordXY 0x9 x y 0x0
  | .ldI nnn => wordA 0xA nnn
  | .jpV0 nnn => wordA 0xB nnn
  | .rnd x kk => wordXK 0xC x kk
  | .drw x y n => wordXY 0xD x y (bitsOf n)
  | .skp x => wordXs 0xE x 0x9E
  | .sknp x => wordXs 0xE x 0xA1
  | .ldVxDt x => wordXs 0xF x 0x07
  | .ldVxK x => wordXs 0xF x 0x0A
  | .ldDtVx x => wordXs 0xF x 0x15
  | .ldStVx x => wordXs 0xF x 0x18
  | .addI x => wordXs 0xF x 0x1E
  | .ldF x => wordXs 0xF x 0x29
  | .ldB x => wordXs 0xF x 0x33
  | .ldMemVx x => wordXs 0xF x 0x55
  | .ldVxMem x => wordXs 0xF x 0x65

/-- The two bytes of an instruction as they stand in memory, the lower address first. -/
def encodeBytes (i : Instr) : List Byte := [highByte (encode i), lowByte (encode i)]

/-! ## The opcode map as data (30_encoding.md R108) -/

/-- One row of the opcode map: a word `w` selects it when `w & mask = pattern`. -/
structure OpcodeRow where
  pattern : Word
  mask : Word
  deriving DecidableEq, Repr

/-- The word selects the row. -/
def OpcodeRow.selects (r : OpcodeRow) (w : Word) : Bool := w &&& r.mask == r.pattern

/-- The row of the opcode map an instruction belongs to. -/
def opcodeRow : Instr → OpcodeRow
  | .sys _ => ⟨0x0000, 0xF000⟩
  | .cls => ⟨0x00E0, 0xFFFF⟩
  | .ret => ⟨0x00EE, 0xFFFF⟩
  | .jp _ => ⟨0x1000, 0xF000⟩
  | .call _ => ⟨0x2000, 0xF000⟩
  | .seByte _ _ => ⟨0x3000, 0xF000⟩
  | .sneByte _ _ => ⟨0x4000, 0xF000⟩
  | .seReg _ _ => ⟨0x5000, 0xF00F⟩
  | .ldByte _ _ => ⟨0x6000, 0xF000⟩
  | .addByte _ _ => ⟨0x7000, 0xF000⟩
  | .ldReg _ _ => ⟨0x8000, 0xF00F⟩
  | .orReg _ _ => ⟨0x8001, 0xF00F⟩
  | .andReg _ _ => ⟨0x8002, 0xF00F⟩
  | .xorReg _ _ => ⟨0x8003, 0xF00F⟩
  | .addReg _ _ => ⟨0x8004, 0xF00F⟩
  | .subReg _ _ => ⟨0x8005, 0xF00F⟩
  | .shr _ _ => ⟨0x8006, 0xF00F⟩
  | .subn _ _ => ⟨0x8007, 0xF00F⟩
  | .shl _ _ => ⟨0x800E, 0xF00F⟩
  | .sneReg _ _ => ⟨0x9000, 0xF00F⟩
  | .ldI _ => ⟨0xA000, 0xF000⟩
  | .jpV0 _ => ⟨0xB000, 0xF000⟩
  | .rnd _ _ => ⟨0xC000, 0xF000⟩
  | .drw _ _ _ => ⟨0xD000, 0xF000⟩
  | .skp _ => ⟨0xE09E, 0xF0FF⟩
  | .sknp _ => ⟨0xE0A1, 0xF0FF⟩
  | .ldVxDt _ => ⟨0xF007, 0xF0FF⟩
  | .ldVxK _ => ⟨0xF00A, 0xF0FF⟩
  | .ldDtVx _ => ⟨0xF015, 0xF0FF⟩
  | .ldStVx _ => ⟨0xF018, 0xF0FF⟩
  | .addI _ => ⟨0xF01E, 0xF0FF⟩
  | .ldF _ => ⟨0xF029, 0xF0FF⟩
  | .ldB _ => ⟨0xF033, 0xF0FF⟩
  | .ldMemVx _ => ⟨0xF055, 0xF0FF⟩
  | .ldVxMem _ => ⟨0xF065, 0xF0FF⟩

/-- The 34 rows that exclude no word, and so never overlap: every row but SYS. -/
def exactRows : List OpcodeRow :=
  [⟨0x00E0, 0xFFFF⟩, ⟨0x00EE, 0xFFFF⟩, ⟨0x1000, 0xF000⟩, ⟨0x2000, 0xF000⟩, ⟨0x3000, 0xF000⟩, ⟨0x4000, 0xF000⟩, ⟨0x5000, 0xF00F⟩]
  ++ [⟨0x6000, 0xF000⟩, ⟨0x7000, 0xF000⟩, ⟨0x8000, 0xF00F⟩, ⟨0x8001, 0xF00F⟩, ⟨0x8002, 0xF00F⟩, ⟨0x8003, 0xF00F⟩, ⟨0x8004, 0xF00F⟩]
  ++ [⟨0x8005, 0xF00F⟩, ⟨0x8006, 0xF00F⟩, ⟨0x8007, 0xF00F⟩, ⟨0x800E, 0xF00F⟩, ⟨0x9000, 0xF00F⟩, ⟨0xA000, 0xF000⟩, ⟨0xB000, 0xF000⟩]
  ++ [⟨0xC000, 0xF000⟩, ⟨0xD000, 0xF000⟩, ⟨0xE09E, 0xF0FF⟩, ⟨0xE0A1, 0xF0FF⟩, ⟨0xF007, 0xF0FF⟩, ⟨0xF00A, 0xF0FF⟩, ⟨0xF015, 0xF0FF⟩]
  ++ [⟨0xF018, 0xF0FF⟩, ⟨0xF01E, 0xF0FF⟩, ⟨0xF029, 0xF0FF⟩, ⟨0xF033, 0xF0FF⟩, ⟨0xF055, 0xF0FF⟩, ⟨0xF065, 0xF0FF⟩]

/-- The SYS row, which a word selects only when it is neither of the two literal codes (30_encoding.md R108 row 1). -/
def sysRow : OpcodeRow := ⟨0x0000, 0xF000⟩

end Sys2Proof
end

