-- ==== Sys2Proof/Machine/Params.lean ====
section
/-! DEFINITION. The setting of the four open parameters that `State.reset` carries: the defaults of 00_scope.md R6. -/

namespace Sys2Proof.Machine

/-- The defaults of 00_scope.md R6, which the spec marks as its own choices (D10, D7, D9, D5; notes/assumptions/1.md). -/
def defaultConfig : Config where
  shiftSrc := .vx
  strictAlign := true
  sysPolicy := .fault
  glyphWrite := .fault

end Sys2Proof.Machine
end

