-- ==== Sys2Proof/Machine/Memory.lean ====
section
/-! DEFINITION. The byte bank of 20_memory.md as a list of (address, byte) cells in one canonical form, what an address that is not
listed reads as (the construction contents of 10_state.md R49), and reading and writing bytes. -/

namespace Sys2Proof.Machine

/-- The memory bank: the cells that differ from the construction contents, by rising address. -/
abbrev Memory := List Host.Cell

/-- The 80 glyph bytes at 0x000..0x04F, digit 0 first, five rows a digit (20_memory.md R72; placement D19 and bitmaps G4 are not the
source's, notes/assumptions/8.md). -/
def glyphTable : List Byte :=
  [0xF0, 0x90, 0x90, 0x90, 0xF0] ++ [0x20, 0x60, 0x20, 0x20, 0x70] ++ [0xF0, 0x10, 0xF0, 0x80, 0xF0] ++ [0xF0, 0x10, 0xF0, 0x10, 0xF0]
  ++ [0x90, 0x90, 0xF0, 0x10, 0x10] ++ [0xF0, 0x80, 0xF0, 0x10, 0xF0] ++ [0xF0, 0x80, 0xF0, 0x90, 0xF0] ++ [0xF0, 0x10, 0x20, 0x40, 0x40]
  ++ [0xF0, 0x90, 0xF0, 0x90, 0xF0] ++ [0xF0, 0x90, 0xF0, 0x10, 0xF0] ++ [0xF0, 0x90, 0xF0, 0x90, 0x90] ++ [0xE0, 0x90, 0xE0, 0x90, 0xE0]
  ++ [0xF0, 0x80, 0x80, 0x80, 0xF0] ++ [0xE0, 0x90, 0x90, 0x90, 0xE0] ++ [0xF0, 0x80, 0xF0, 0x80, 0xF0] ++ [0xF0, 0x80, 0xF0, 0x80, 0x80]

/-- What an address that no cell lists reads as: the glyph table, and zero above it (10_state.md R49, "zero-fill 4095 bytes"). -/
def initialByte (a : Nat) : Byte := glyphTable.getD a 0

/-- The byte at address `a` (20_memory.md R78: a read returns the byte last written, or the construction value). -/
def readByte : Memory → Nat → Byte
  | [], a => initialByte a
  | (k, b) :: m, a => if k = a then b else readByte m a

/-- A cell put in its place by rising address. -/
def insertCell (a : Nat) (b : Byte) : Memory → Memory
  | [] => [(a, b)]
  | (k, c) :: m => if k < a then (k, c) :: insertCell a b m else (a, b) :: (k, c) :: m

/-- Store one byte, keeping the canonical form: a cell is listed only where it differs from the construction contents. -/
def writeByte (m : Memory) (a : Nat) (b : Byte) : Memory :=
  if b = initialByte a then m.filter (fun c => c.1 != a)
  else insertCell a b (m.filter (fun c => c.1 != a))

/-- Store bytes at ascending addresses from `a` (41_index_memory.md R163, R164; 70_reset_and_hazards.md R310). -/
def writeBytes : Memory → Nat → List Byte → Memory
  | m, _, [] => m
  | m, a, b :: bs => writeBytes (writeByte m a b) (a + 1) bs

/-- Addresses rise strictly from `lo`, and every cell is in the bank and differs from the construction contents. -/
def wfFrom : Nat → Memory → Bool
  | _, [] => true
  | lo, (k, b) :: m => decide (lo ≤ k) && decide (k < memSize) && b != initialByte k && wfFrom (k + 1) m

/-- The canonical form of memory: equal memories are equal lists. -/
def Memory.wf (m : Memory) : Bool := wfFrom 0 m

end Sys2Proof.Machine
end

