-- ==== Sys2Proof/Machine/Raster.lean ====
section
/-! DEFINITION. The display surface (45_display.md R250) and its XOR sprite rasterizer (R252 to R255), as the loop the spec writes. -/

namespace Sys2Proof.Machine

/-- The display surface: 32 rows of 64 pixels, true = lit (10_state.md R44, 45_display.md R250). -/
abbrev Display := Vector (Vector Bool 64) 32

/-- Every pixel dark. -/
def darkDisplay : Display := Vector.replicate 32 (Vector.replicate 64 false)

/-- `D[r][c]`. -/
def readPixel (d : Display) (r : Fin 32) (c : Fin 64) : Bool := (d[r.val])[c.val]

/-- `D[r][c] <- b`. -/
def writePixel (d : Display) (r : Fin 32) (c : Fin 64) (b : Bool) : Display :=
  d.set r.val ((d[r.val]).set c.val b c.isLt) r.isLt

/-- The display row of sprite row `row`: `(y0 + row) mod 32` (45_display.md R250, R255). -/
def rowOf (y0 row : Nat) : Fin 32 := ⟨(y0 + row) % 32, Nat.mod_lt _ (by decide)⟩

/-- The display column of sprite column `col`: `(x0 + col) mod 64` (45_display.md R250, R255). -/
def colOf (x0 col : Nat) : Fin 64 := ⟨(x0 + col) % 64, Nat.mod_lt _ (by decide)⟩

/-- Sprite bit `col` of a row byte, most significant bit first: bit 7 is the leftmost pixel (45_display.md R250). -/
def spriteBit (b : Byte) (col : Nat) : Bool := b.getLsbD (7 - col)

/-- The rasterizer's two outputs: the surface and the collision flag (45_display.md R253). -/
structure Raster where
  surface : Display
  collision : Bool
  deriving DecidableEq, Repr

/-- One bit: the flag is OR-accumulated from the old pixel and the new bit, then the pixel is XORed (45_display.md R253, R254). -/
def drawBit (r : Fin 32) (c : Fin 64) (bit : Bool) (p : Raster) : Raster where
  surface := writePixel p.surface r c (readPixel p.surface r c ^^ bit)
  collision := p.collision || (readPixel p.surface r c && bit)

/-- One sprite row, columns ascending. -/
def drawRow (x0 y0 row : Nat) (b : Byte) (p : Raster) : Raster :=
  (List.range 8).foldl (fun p col => drawBit (rowOf y0 row) (colOf x0 col) (spriteBit b col) p) p

/-- The sprite of `n` rows whose bytes stand in memory from `a`, rows ascending; the flag is "reset to 0 before the loop begins"
(45_display.md R252, R254). -/
def drawSprite (m : Memory) (a x0 y0 n : Nat) (d : Display) : Raster :=
  (List.range n).foldl (fun p row => drawRow x0 y0 row (readByte m (a + row)) p) ⟨d, false⟩

end Sys2Proof.Machine
end

