-- ==== Sys2Proof/Machine/State.lean ====
section
/-! DEFINITION. The architectural state of 10_state.md R30 as plain data, the faults of 60_exceptions.md R270, the one refusal, and the
state after construction with an empty image (10_state.md R49). -/

namespace Sys2Proof.Machine

/-- `WAIT`, the engine state (10_state.md R46, 40_step_engine.md R148). -/
inductive Wait where
  /-- Normal fetch, decode, execute. -/
  | ready
  /-- Blocked on the input latch; `r` is the register awaiting a key press. -/
  | awaitingKey (r : RegIdx)
  deriving DecidableEq, Repr

/-- The complete state of the core (10_state.md R30), then two fields that are the model's own: the counter of random draws and the
setting of the open parameters (INVENTORY.md, State). -/
structure State where
  /-- `x[0..15]`, V0..VF (R31). -/
  v : Vector Byte 16
  /-- `I` (R37). -/
  index : Word
  /-- `pc`, the address of the next instruction to fetch (R34). -/
  pc : Word
  /-- `DT` (R38). -/
  dt : Byte
  /-- `ST` (R39). -/
  st : Byte
  /-- `SP`, 0 when the stack is empty (R41). -/
  sp : Fin 16
  /-- `S[0..15]` (R40). -/
  stack : Vector Word 16
  /-- `Mem[0x000..0xFFE]` (R47). -/
  mem : Memory
  /-- `D[0..31][0..63]` (R44). -/
  display : Display
  /-- `K[0..15]`, true = pressed (R45). -/
  keys : Vector Bool 16
  /-- `WAIT` (R46). -/
  wait : Wait
  /-- The model's own: how many random bytes CXKK has drawn (notes/assumptions/2.md). -/
  draws : Nat
  /-- The model's own: the open parameters of 00_scope.md R6, changed by nothing (notes/assumptions/1.md). -/
  cfg : Config
  deriving DecidableEq, Repr

/-- The eight fault kinds of 60_exceptions.md R270 in its order. Each carries its payload and, as R298 says, the decoded instruction when
decode succeeded (`none` for a fetch fault, a decode failure and the host's key event). A fault changes no state (R280) and the host may
step again (R283), so stopping here is what the spec describes: SAFE in each case, with the spec's own choices named in the log. -/
inductive Fault where
  /-- Raised by the step when no row matches the fetched word, and by SYS under `SYS_POLICY` = `fault` (R271). Safe: the spec's effect. -/
  | decodeFailure (w : Word) (ins : Option Instr)
  /-- Raised by 2NNN when `SP` = 15 (R272). Safe: the spec's effect. -/
  | stackOverflow (ins : Option Instr)
  /-- Raised by 00EE when `SP` = 0 (R273). Safe: the spec's effect. -/
  | stackUnderflow (ins : Option Instr)
  /-- Raised by 1NNN, 2NNN, BNNN for a target outside [0x200, 0xFFE]; by the fetch and by FX33, FX55, FX65, DXYN past the bank; by FX33
  and FX55 into the glyph table under `GLYPH_WRITE` = `fault` (R274). `a` is unbounded (20_memory.md R86). Safe: the spec's effect, its
  data cases by D4 and D5 (notes/assumptions/11.md). -/
  | outOfBoundsAddress (a : Nat) (ins : Option Instr)
  /-- Raised by 1NNN, 2NNN, BNNN for an odd in-range target under `STRICT_ALIGN` (R275). Safe: the spec's effect. -/
  | unevenAddress (t : Nat) (ins : Option Instr)
  /-- Raised by FX29 when Vx > 0x0F (R276). Safe: the spec's effect. -/
  | noSuchDigitSprite (d : Byte) (ins : Option Instr)
  /-- Raised by DXYN when Vx ≥ 64 or Vy ≥ 32 (R277). Safe: the spec's effect. -/
  | outOfScreenBounds (x y : Byte) (ins : Option Instr)
  /-- Raised by EX9E and EXA1 when Vx > 15 (D16), and by the host's key event when the index is above 15 (R278). Safe: the spec's
  effect. -/
  | invalidKeyIndex (k : Nat) (ins : Option Instr)
  deriving DecidableEq, Repr

/-- Where the model gives no meaning. -/
inductive Refusal where
  /-- An instruction that has no meaning yet; no arm of `exec` uses it. Safe. -/
  | notModelled (mnemonic : String)
  /-- Raised by construction when the program image is longer than 3583 bytes: "construction-time misuse", so that no machine comes into
  being (70_reset_and_hazards.md R312, 60_exceptions.md R297, D26). Safe. -/
  | imageTooLong (length : Nat)
  deriving DecidableEq, Repr

/-- The machine after construction with an empty image (10_state.md R49). `pc`, `wait` and the memory are the source's values; every zero
of the other fields is the spec's decision D1 (notes/assumptions/3.md), `draws` is the model's own (notes/assumptions/2.md) and `cfg`
holds the defaults of 00_scope.md R6 (notes/assumptions/1.md). -/
def State.reset : State where
  v := Vector.replicate 16 0
  index := 0
  pc := 0x200
  dt := 0
  st := 0
  sp := 0
  stack := Vector.replicate 16 0
  mem := []
  display := darkDisplay
  keys := Vector.replicate 16 false
  wait := .ready
  draws := 0
  cfg := defaultConfig

end Sys2Proof.Machine
end

