-- ==== Sys2Proof/Machine/Ops.lean ====
section
/-! DEFINITION. The named operations every meaning is written in: reading and writing each piece of state, the three ways the program
counter moves, the checks that raise a fault, raising one, the stack, and the fetch. -/

namespace Sys2Proof.Machine

/-! ## Registers and the other pieces of state (00_scope.md R10) -/

/-- VF, the register that some instructions overwrite with a flag (10_state.md R33). -/
abbrev vf : RegIdx := 15

/-- `x[r]`: read a general register; none is hard-wired (10_state.md R31, R32). -/
def State.reg (s : State) (r : RegIdx) : Byte := s.v[r.val]

/-- `x[r] <- b`. -/
def State.setReg (s : State) (r : RegIdx) (b : Byte) : State := { s with v := s.v.set r.val b r.isLt }

/-- `I <- a`. -/
def State.setIndex (s : State) (a : Word) : State := { s with index := a }

/-- `DT <- b`. -/
def State.setDt (s : State) (b : Byte) : State := { s with dt := b }

/-- `ST <- b`. -/
def State.setSt (s : State) (b : Byte) : State := { s with st := b }

/-- The whole register file replaced, as the register fill does. -/
def State.setRegs (s : State) (v : Vector Byte 16) : State := { s with v := v }

/-- The memory bank replaced by the result of a store. -/
def State.setMem (s : State) (m : Memory) : State := { s with mem := m }

/-- The display replaced by the result of a clear or a draw. -/
def State.setDisplay (s : State) (d : Display) : State := { s with display := d }

/-- `K[k]`. -/
def State.key (s : State) (k : Fin 16) : Bool := s.keys[k.val]

/-- `K[k] <- b`; only the host's key event does it (10_state.md R45). -/
def State.setKey (s : State) (k : Fin 16) (b : Bool) : State := { s with keys := s.keys.set k.val b k.isLt }

/-- `WAIT <- w`. -/
def State.setWait (s : State) (w : Wait) : State := { s with wait := w }

/-- One random byte has been drawn. -/
def State.countDraw (s : State) : State := { s with draws := s.draws + 1 }

/-- `Mem[a]`. -/
def State.byte (s : State) (a : Nat) : Byte := readByte s.mem a

/-- `D[r][c]`. -/
def State.pixel (s : State) (r : Fin 32) (c : Fin 64) : Bool := readPixel s.display r c

/-- `S[k]`. -/
def State.slot (s : State) (k : Fin 16) : Word := s.stack[k.val]

/-! ## How the program counter moves (40_step_engine.md R145 to R147) -/

/-- Normal advance: `pc <- pc + 2` (R145). -/
def State.advance (s : State) : State := { s with pc := s.pc + 2 }

/-- Skip: the normal advance, and a second `+ 2` when the condition holds (R146). -/
def State.skipIf (s : State) (c : Bool) : State := { s with pc := if c then s.pc + 4 else s.pc + 2 }

/-- Absolute transfer to a validated target: nothing is added (R147). -/
def State.jumpTo (s : State) (t : Nat) : State := { s with pc := BitVec.ofNat 16 t }

/-- Return: the popped address, then the normal advance past the CALL that stands there (R147, 90_conflicts.md C1). -/
def State.resumeAfter (s : State) (a : Word) : State := { s with pc := a + 2 }

/-! ## The stack (10_state.md R40 to R43) -/

/-- Push once overflow is excluded: "increments the pointer then writes" (R42). -/
def State.push (s : State) (a : Word) : State :=
  { s with sp := s.sp + 1, stack := s.stack.set (s.sp + 1).val a (s.sp + 1).isLt }

/-- The top entry, `S[SP]` (R41). -/
def State.top (s : State) : Word := s.stack[s.sp.val]

/-- Drop the top entry once underflow is excluded: the slot keeps its value (R43). -/
def State.pop (s : State) : State := { s with sp := s.sp - 1 }

/-! ## Raising a fault

There is no trap entry in this machine: a fault saves nothing, masks nothing, pushes nothing and transfers control nowhere (60_exceptions.md
R281); the fault value is the whole of what the host receives (R298), the state stays exactly as it was (R280), and there is no return
(R283). All conditions are evaluated before any write. -/

/-- End the step: with the first fault found, or with the state in which every write has been made. -/
def complete (check : Option Fault) (s : State) : Host.Outcome State Fault Refusal :=
  match check with
  | some f => .fault f
  | none => .next s

/-- The access to `n` bytes from `a` lies in the bank, or raises `OutOfBoundsAddress` with its lowest offending address; an access to no
byte raises nothing (20_memory.md R76, R86). -/
def checkRange (ins : Option Instr) (a n : Nat) : Option Fault :=
  if n = 0 ∨ a + n ≤ memSize then none else some (.outOfBoundsAddress (max a memSize) ins)

/-- A write range that begins at `a` keeps out of the glyph table, or raises `OutOfBoundsAddress` under `GLYPH_WRITE` = `fault`; the
lowest address of the range in the table is `a` itself (20_memory.md R77). -/
def checkGlyph (ins : Instr) (cfg : Config) (a : Nat) : Option Fault :=
  if cfg.glyphWrite = .fault ∧ a ≤ glyphEnd then some (.outOfBoundsAddress a (some ins)) else none

/-- The checks of a store of `n` bytes from `a`, in their priority order (60_exceptions.md R279). -/
def checkStore (ins : Instr) (cfg : Config) (a n : Nat) : Option Fault :=
  (checkRange (some ins) a n).or (checkGlyph ins cfg a)

/-- `CheckTarget(t)` of 43_control_flow.md R210: range before alignment (D6, D8, notes/assumptions/12.md). -/
def checkTarget (ins : Instr) (cfg : Config) (t : Nat) : Option Fault :=
  if t < jumpLo ∨ jumpHi < t then some (.outOfBoundsAddress t (some ins))
  else if cfg.strictAlign = true ∧ t % 2 = 1 then some (.unevenAddress t (some ins))
  else none

/-- "push beyond 15 is an overflow error" (10_state.md R42). -/
def checkPush (ins : Instr) (sp : Fin 16) : Option Fault :=
  if sp = 15 then some (.stackOverflow (some ins)) else none

/-- "pop at pointer 0 ... is an underflow error" (10_state.md R43). -/
def checkPop (ins : Instr) (sp : Fin 16) : Option Fault :=
  if sp = 0 then some (.stackUnderflow (some ins)) else none

/-- The digit lookup: "any other value is an error" (41_index_memory.md R162). -/
def checkDigit (ins : Instr) (d : Byte) : Option Fault :=
  if 0xF < d.toNat then some (.noSuchDigitSprite d (some ins)) else none

/-- A key index above 15 names no key (44_timer_key.md R236, 60_exceptions.md R290). -/
def checkKey (ins : Option Instr) (k : Nat) : Option Fault :=
  if 15 < k then some (.invalidKeyIndex k ins) else none

/-- The draw origin lies in the grid (45_display.md R256). -/
def checkOrigin (ins : Instr) (x y : Byte) : Option Fault :=
  if dispW ≤ x.toNat ∨ dispH ≤ y.toNat then some (.outOfScreenBounds x y (some ins)) else none

/-! ## Fetch (40_step_engine.md R142) -/

/-- The word at `pc`, big-endian (20_memory.md R73, 30_encoding.md R101). -/
def State.fetchWord (s : State) : Word := wordOfBytes (s.byte s.pc.toNat) (s.byte (s.pc.toNat + 1))

/-- The only check the fetch makes: both bytes are in the bank (R142, D24, notes/assumptions/19.md). -/
def checkFetch (s : State) : Option Fault := checkRange none s.pc.toNat 2

end Sys2Proof.Machine
end

