-- ==== Sys2Proof/Machine/Flags.lean ====
section
/-! DEFINITION. The 8-bit arithmetic and the flags it gives VF (42_alu.md R191), computed on integers and narrowed at the end, and the two
orders in which a result and its flag are written (R192). -/

namespace Sys2Proof.Machine

/-- A flag as VF receives it. -/
def flagByte (b : Bool) : Byte := if b then 1 else 0

/-- Addition modulo 256. -/
def addBytes (a b : Byte) : Byte := BitVec.ofNat 8 ((a.toNat + b.toNat) % 256)

/-- The carry: 1 exactly when the unbounded sum is at least 256. -/
def carries (a b : Byte) : Bool := decide (256 ≤ a.toNat + b.toNat)

/-- Subtraction modulo 256: `a - b`, or `a - b + 256` when `a < b`. -/
def subBytes (a b : Byte) : Byte := BitVec.ofNat 8 ((a.toNat + 256 - b.toNat) % 256)

/-- NOT-borrow: 1 when `a ≥ b`. -/
def noBorrow (a b : Byte) : Bool := decide (b.toNat ≤ a.toNat)

/-- Logical shift right by one. -/
def shiftRight (a : Byte) : Byte := a >>> 1

/-- Bit 0 before the shift right (R188). -/
def shiftRightFlag (a : Byte) : Bool := a.getLsbD 0

/-- Logical shift left by one, modulo 256. -/
def shiftLeft (a : Byte) : Byte := a <<< 1

/-- Bit 7 before the shift left (R190). -/
def shiftLeftFlag (a : Byte) : Bool := a.getLsbD 7

/-- "write the result into the first operand and set the flag register": result first, so that with X = 0xF VF ends holding the flag
(R192; the order is the spec's decision D11, notes/assumptions/10.md). -/
def State.resultThenFlag (s : State) (x : RegIdx) (r : Byte) (f : Bool) : State := (s.setReg x r).setReg vf (flagByte f)

/-- "sets the flag register to the bit shifted out ... then halves the value": flag first, so that with X = 0xF VF ends holding the
result (R192; D11, notes/assumptions/10.md). -/
def State.flagThenResult (s : State) (x : RegIdx) (r : Byte) (f : Bool) : State := (s.setReg vf (flagByte f)).setReg x r

end Sys2Proof.Machine
end

