-- ==== Sys2Proof/Machine/Operands.lean ====
section
/-! DEFINITION. The operand forms: the one addressing mode, the jump targets, the shifted register, the decimal digits, the register
ranges of spill and fill. -/

namespace Sys2Proof.Machine

/-- The family's one addressing mode: `I + k`, an unbounded sum (41_index_memory.md R166, 20_memory.md R86). -/
def State.effectiveAddress (s : State) (k : Nat) : Nat := s.index.toNat + k

/-- The target of 1NNN and 2NNN: `zext_16(NNN)` (43_control_flow.md R211, R212). -/
def absoluteTarget (nnn : Addr12) : Nat := nnn.toNat

/-- The target of BNNN: `NNN + V0`, not reduced; the offset register is always V0 (43_control_flow.md R214). -/
def State.offsetTarget (s : State) (nnn : Addr12) : Nat := nnn.toNat + (s.reg 0).toNat

/-- The shifted operand of 8XY6 and 8XYE, by `SHIFT_SRC` (42_alu.md R188, R190; D10). -/
def State.shiftOperand (s : State) (x y : RegIdx) : Byte :=
  match s.cfg.shiftSrc with
  | .vx => s.reg x
  | .vy => s.reg y

/-- The start address of digit `d`'s glyph, `5 * d` (20_memory.md R72, D19, notes/assumptions/8.md). -/
def glyphAddress (d : Byte) : Word := BitVec.ofNat 16 (5 * d.toNat)

/-- Hundreds, tens and units of a byte (41_index_memory.md R163). -/
def decimalDigits (b : Byte) : List Byte :=
  [BitVec.ofNat 8 (b.toNat / 100), BitVec.ofNat 8 (b.toNat / 10 % 10), BitVec.ofNat 8 (b.toNat % 10)]

/-- V0..VX inclusive, in ascending order (41_index_memory.md R164). -/
def State.spillBytes (s : State) (x : RegIdx) : List Byte := s.v.toList.take (x.val + 1)

/-- The register file in which V0..VX hold the bytes from `a` and the rest are unchanged (41_index_memory.md R165). -/
def State.filledRegs (s : State) (x : RegIdx) (a : Nat) : Vector Byte 16 :=
  Vector.ofFn (fun r : Fin 16 => if r ≤ x then s.byte (a + r.val) else s.reg r)

/-- The state of the key that a register names, once the index is known to be at most 15 (44_timer_key.md R233). -/
def State.keyNamed (s : State) (k : Byte) : Bool := s.key (Fin.ofNat 16 k.toNat)

end Sys2Proof.Machine
end

