-- ==== Sys2Proof/Machine/Alu.lean ====
section
/-! DEFINITION. The meanings of the register arithmetic and logic instructions (42_alu.md). None of them faults; every operand is read
from the state at the start of the step (R192). -/

namespace Sys2Proof.Machine

/-- 6XKK LD Vx, KK (R180). -/
def execLdByte (x : RegIdx) (kk : Byte) (s : State) : Host.Outcome State Fault Refusal :=
  .next (s.setReg x kk).advance

/-- 7XKK ADD Vx, KK: no flag (R181). -/
def execAddByte (x : RegIdx) (kk : Byte) (s : State) : Host.Outcome State Fault Refusal :=
  .next (s.setReg x (addBytes (s.reg x) kk)).advance

/-- 8XY0 LD Vx, Vy (R182). -/
def execLdReg (x y : RegIdx) (s : State) : Host.Outcome State Fault Refusal :=
  .next (s.setReg x (s.reg y)).advance

/-- 8XY1 OR Vx, Vy: VF is not reset (R183, D12). -/
def execOrReg (x y : RegIdx) (s : State) : Host.Outcome State Fault Refusal :=
  .next (s.setReg x (s.reg x ||| s.reg y)).advance

/-- 8XY2 AND Vx, Vy: VF is not reset (R184, D12). -/
def execAndReg (x y : RegIdx) (s : State) : Host.Outcome State Fault Refusal :=
  .next (s.setReg x (s.reg x &&& s.reg y)).advance

/-- 8XY3 XOR Vx, Vy: VF is not reset (R185, D12). -/
def execXorReg (x y : RegIdx) (s : State) : Host.Outcome State Fault Refusal :=
  .next (s.setReg x (s.reg x ^^^ s.reg y)).advance

/-- 8XY4 ADD Vx, Vy: VF = carry (R186). -/
def execAddReg (x y : RegIdx) (s : State) : Host.Outcome State Fault Refusal :=
  .next (s.resultThenFlag x (addBytes (s.reg x) (s.reg y)) (carries (s.reg x) (s.reg y))).advance

/-- 8XY5 SUB Vx, Vy: Vx - Vy, VF = NOT borrow (R187). -/
def execSubReg (x y : RegIdx) (s : State) : Host.Outcome State Fault Refusal :=
  .next (s.resultThenFlag x (subBytes (s.reg x) (s.reg y)) (noBorrow (s.reg x) (s.reg y))).advance

/-- 8XY6 SHR: VF = the bit shifted out (R188). -/
def execShr (x y : RegIdx) (s : State) : Host.Outcome State Fault Refusal :=
  .next (s.flagThenResult x (shiftRight (s.shiftOperand x y)) (shiftRightFlag (s.shiftOperand x y))).advance

/-- 8XY7 SUBN Vx, Vy: Vy - Vx, VF = NOT borrow (R189). -/
def execSubn (x y : RegIdx) (s : State) : Host.Outcome State Fault Refusal :=
  .next (s.resultThenFlag x (subBytes (s.reg y) (s.reg x)) (noBorrow (s.reg y) (s.reg x))).advance

/-- 8XYE SHL: VF = the bit shifted out (R190). -/
def execShl (x y : RegIdx) (s : State) : Host.Outcome State Fault Refusal :=
  .next (s.flagThenResult x (shiftLeft (s.shiftOperand x y)) (shiftLeftFlag (s.shiftOperand x y))).advance

/-- CXKK with the random byte `r` given: `x[X] <- r & KK` (R194). -/
def rndWith (r : Byte) (x : RegIdx) (kk : Byte) (s : State) : State := (s.setReg x (r &&& kk)).countDraw.advance

/-- CXKK RND Vx, KK: the random byte is the free value of the next draw (R194, 00_scope.md R7; notes/assumptions/2.md). -/
def execRnd (x : RegIdx) (kk : Byte) (s : State) : Host.Outcome State Fault Refusal :=
  .next (rndWith (Config.freeByte s.draws) x kk s)

end Sys2Proof.Machine
end

