-- ==== Sys2Proof/Machine/ControlFlow.lean ====
section
/-! DEFINITION. The meanings of the control-transfer instructions and the register skips (43_control_flow.md). -/

namespace Sys2Proof.Machine

/-- SYS under its policy (R215): the word as the decode failure carries it, or nothing. -/
def checkSys (nnn : Addr12) (cfg : Config) : Option Fault :=
  match cfg.sysPolicy with
  | .fault => some (.decodeFailure (encode (.sys nnn)) (some (.sys nnn)))
  | .nop => none

/-- 0NNN SYS NNN: a decode failure under `SYS_POLICY` = `fault`, the normal advance under `nop` (R215, D9). -/
def execSys (nnn : Addr12) (s : State) : Host.Outcome State Fault Refusal :=
  complete (checkSys nnn s.cfg) s.advance

/-- 00EE RET: pop, then the normal advance past the CALL (R213, R147, 90_conflicts.md C1). -/
def execRet (s : State) : Host.Outcome State Fault Refusal :=
  complete (checkPop .ret s.sp) (s.pop.resumeAfter s.top)

/-- 1NNN JP NNN (R211). -/
def execJp (nnn : Addr12) (s : State) : Host.Outcome State Fault Refusal :=
  complete (checkTarget (.jp nnn) s.cfg (absoluteTarget nnn)) (s.jumpTo (absoluteTarget nnn))

/-- 2NNN CALL NNN: overflow first, then the target; pushes the CALL's own address (R212). -/
def execCall (nnn : Addr12) (s : State) : Host.Outcome State Fault Refusal :=
  complete ((checkPush (.call nnn) s.sp).or (checkTarget (.call nnn) s.cfg (absoluteTarget nnn)))
    ((s.push s.pc).jumpTo (absoluteTarget nnn))

/-- BNNN JP V0, NNN: the sum is not wrapped to 12 bits (R214). -/
def execJpV0 (nnn : Addr12) (s : State) : Host.Outcome State Fault Refusal :=
  complete (checkTarget (.jpV0 nnn) s.cfg (s.offsetTarget nnn)) (s.jumpTo (s.offsetTarget nnn))

/-- 3XKK SE Vx, KK (R216). -/
def execSeByte (x : RegIdx) (kk : Byte) (s : State) : Host.Outcome State Fault Refusal :=
  .next (s.skipIf (s.reg x == kk))

/-- 4XKK SNE Vx, KK (R217). -/
def execSneByte (x : RegIdx) (kk : Byte) (s : State) : Host.Outcome State Fault Refusal :=
  .next (s.skipIf (s.reg x != kk))

/-- 5XY0 SE Vx, Vy (R218). -/
def execSeReg (x y : RegIdx) (s : State) : Host.Outcome State Fault Refusal :=
  .next (s.skipIf (s.reg x == s.reg y))

/-- 9XY0 SNE Vx, Vy (R219). -/
def execSneReg (x y : RegIdx) (s : State) : Host.Outcome State Fault Refusal :=
  .next (s.skipIf (s.reg x != s.reg y))

end Sys2Proof.Machine
end

