-- ==== Sys2Proof/Machine/DisplayInstr.lean ====
section
/-! DEFINITION. The meanings of the two display instructions (45_display.md). -/

namespace Sys2Proof.Machine

/-- 00E0 CLS (R251). -/
def execCls (s : State) : Host.Outcome State Fault Refusal :=
  .next (s.setDisplay darkDisplay).advance

/-- The draw DXYN delegates to the rasterizer: origin (Vx, Vy), rows from I, on the display before the step (R252, R253). -/
def State.drawn (s : State) (x y : RegIdx) (n : Nibble) : Raster :=
  drawSprite s.mem (s.effectiveAddress 0) (s.reg x).toNat (s.reg y).toNat n.val s.display

/-- DXYN DRW Vx, Vy, N: the origin is checked before the memory range; VF is always written (R252; D8, D25, notes/assumptions/20.md). -/
def execDrw (x y : RegIdx) (n : Nibble) (s : State) : Host.Outcome State Fault Refusal :=
  complete ((checkOrigin (.drw x y n) (s.reg x) (s.reg y)).or (checkRange (some (.drw x y n)) (s.effectiveAddress 0) n.val))
    ((s.setDisplay (s.drawn x y n).surface).setReg vf (flagByte (s.drawn x y n).collision)).advance

end Sys2Proof.Machine
end

