-- ==== Sys2Proof/Machine/IndexMemory.lean ====
section
/-! DEFINITION. The meanings of the index-register and memory instructions (41_index_memory.md). `I` is left unchanged by FX33, FX55 and
FX65 (R166, D14); a range is checked whole before anything is written. -/

namespace Sys2Proof.Machine

/-- ANNN LD I, NNN: zero-extended, not checked against the bank (R160). -/
def execLdI (nnn : Addr12) (s : State) : Host.Outcome State Fault Refusal :=
  .next (s.setIndex (nnn.setWidth 16)).advance

/-- FX1E ADD I, Vx: modulo 65536, no flag, no 12-bit mask (R161, D13). -/
def execAddI (x : RegIdx) (s : State) : Host.Outcome State Fault Refusal :=
  .next (s.setIndex (BitVec.ofNat 16 ((s.index.toNat + (s.reg x).toNat) % 65536))).advance

/-- FX29 LD F, Vx: the value is not masked to its low nybble (R162). -/
def execLdF (x : RegIdx) (s : State) : Host.Outcome State Fault Refusal :=
  complete (checkDigit (.ldF x) (s.reg x)) (s.setIndex (glyphAddress (s.reg x))).advance

/-- FX33 LD B, Vx: the three decimal digits at I, I+1, I+2 (R163). -/
def execLdB (x : RegIdx) (s : State) : Host.Outcome State Fault Refusal :=
  complete (checkStore (.ldB x) s.cfg (s.effectiveAddress 0) 3)
    (s.setMem (writeBytes s.mem (s.effectiveAddress 0) (decimalDigits (s.reg x)))).advance

/-- FX55 LD [I], Vx: V0..VX inclusive to memory at I (R164). -/
def execLdMemVx (x : RegIdx) (s : State) : Host.Outcome State Fault Refusal :=
  complete (checkStore (.ldMemVx x) s.cfg (s.effectiveAddress 0) (x.val + 1))
    (s.setMem (writeBytes s.mem (s.effectiveAddress 0) (s.spillBytes x))).advance

/-- FX65 LD Vx, [I]: memory at I to V0..VX inclusive; the glyph table may be read (R165). -/
def execLdVxMem (x : RegIdx) (s : State) : Host.Outcome State Fault Refusal :=
  complete (checkRange (some (.ldVxMem x)) (s.effectiveAddress 0) (x.val + 1))
    (s.setRegs (s.filledRegs x (s.effectiveAddress 0))).advance

end Sys2Proof.Machine
end

