-- ==== Sys2Proof/Machine/TimerKey.lean ====
section
/-! DEFINITION. The meanings of the timer and key instructions (44_timer_key.md). -/

namespace Sys2Proof.Machine

/-- FX07 LD Vx, DT (R230). -/
def execLdVxDt (x : RegIdx) (s : State) : Host.Outcome State Fault Refusal :=
  .next (s.setReg x s.dt).advance

/-- FX15 LD DT, Vx (R231). -/
def execLdDtVx (x : RegIdx) (s : State) : Host.Outcome State Fault Refusal :=
  .next (s.setDt (s.reg x)).advance

/-- FX18 LD ST, Vx (R232). -/
def execLdStVx (x : RegIdx) (s : State) : Host.Outcome State Fault Refusal :=
  .next (s.setSt (s.reg x)).advance

/-- EX9E SKP Vx: the full 8-bit value is the key index (R233, R236). -/
def execSkp (x : RegIdx) (s : State) : Host.Outcome State Fault Refusal :=
  complete (checkKey (some (.skp x)) (s.reg x).toNat) (s.skipIf (s.keyNamed (s.reg x)))

/-- EXA1 SKNP Vx (R234, R236). -/
def execSknp (x : RegIdx) (s : State) : Host.Outcome State Fault Refusal :=
  complete (checkKey (some (.sknp x)) (s.reg x).toNat) (s.skipIf (!s.keyNamed (s.reg x)))

/-- FX0A LD Vx, K: enters the wait and advances at once; Vx is written by the key event that resolves it (R235, D27). -/
def execLdVxK (x : RegIdx) (s : State) : Host.Outcome State Fault Refusal :=
  .next (s.setWait (.awaitingKey x)).advance

end Sys2Proof.Machine
end

