-- ==== Sys2Proof/Machine/Engine.lean ====
section
/-! DEFINITION. `Step(r)` of 40_step_engine.md R140: nothing while waiting for a key (R141), else fetch (R142), decode (R143) and execute
(R144). The free input `r` is drawn inside CXKK (notes/assumptions/2.md). -/

namespace Sys2Proof.Machine

/-- Decode the fetched word and execute it, or raise `DecodeFailure` carrying the word (R143). -/
def decodeAndExecute (w : Word) (s : State) : Host.Outcome State Fault Refusal :=
  match decode w with
  | .ok i => exec i s
  | .error _ => .fault (.decodeFailure w none)

/-- Fetch, decode, execute (R140). -/
def runInstruction (s : State) : Host.Outcome State Fault Refusal :=
  match checkFetch s with
  | some f => .fault f
  | none => decodeAndExecute s.fetchWord s

/-- One step: a step taken in `AwaitingKey` does nothing and succeeds (R141, D30). -/
def stepEngine (s : State) : Host.Outcome State Fault Refusal :=
  match s.wait with
  | .awaitingKey _ => .next s
  | .ready => runInstruction s

/-- The state in which an instruction can be placed at `pc`: the engine is `Ready`, and a `pc` from which no two bytes can be fetched is
replaced by the entry point (the model's own, notes/assumptions/7.md). -/
def readyToFetch (s : State) : State :=
  { s with wait := .ready, pc := if s.pc.toNat + 2 ≤ memSize then s.pc else BitVec.ofNat 16 progBase }

/-- The word stored at `pc`, big-endian. -/
def placeWord (s : State) (w : Word) : State :=
  s.setMem (writeBytes s.mem s.pc.toNat [highByte w, lowByte w])

end Sys2Proof.Machine
end

