-- ==== Sys2Proof/Machine/Step.lean ====
section
/-! DEFINITION. The machine's step, and the placing of one instruction where the step fetches. -/

namespace Sys2Proof.Machine

/-- One step request (40_step_engine.md R140, 60_exceptions.md R291). -/
def step (s : State) : Host.Outcome State Fault Refusal := stepEngine s

/-- `s` with the instruction whose opcode-table bits are `w` stored where `step` fetches its next instruction, and the engine `Ready`: it
stands for the program load of 70_reset_and_hazards.md R312 (notes/assumptions/7.md). -/
def State.withFetchWord (s : State) (nbits w : Nat) : State :=
  placeWord (readyToFetch s) (BitVec.ofNat 16 (w % 2 ^ nbits))

end Sys2Proof.Machine
end

