-- ==== Sys2Proof/Machine/HostEvents.lean ====
section
/-! DEFINITION. What the host can do to the core besides requesting a step: construction (70_reset_and_hazards.md R310, R312), the timer
tick (60_exceptions.md R288), the key event (R289, R290), the batch tick (R292), the framebuffer read (45_display.md R257), and any
interleaving of them (00_scope.md R8, 20_memory.md R85). -/

namespace Sys2Proof.Machine

/-- The longest program image: 3583 bytes, 0x200..0xFFE (R312). -/
def maxImage : Nat := memSize - progBase

/-- `Construct(P)` under a setting of the open parameters: the bank zero-filled, the glyphs placed, the image copied verbatim from 0x200,
every other piece of state as 10_state.md R49; an image that does not fit is refused (R310, R312, D26). -/
def construct (cfg : Config) (image : List Byte) : Host.Outcome State Fault Refusal :=
  if maxImage < image.length then .refused (.imageTooLong image.length)
  else .next { State.reset with mem := writeBytes [] progBase image, cfg := cfg }

/-- One counter of a timer tick, saturating at zero (R288). -/
def countDown (b : Byte) : Byte := if b.toNat = 0 then 0 else BitVec.ofNat 8 (b.toNat - 1)

/-- `TimerTick()`: independent of `WAIT`, changes nothing else, cannot fault (R288). -/
def timerTick (s : State) : State := (s.setDt (countDown s.dt)).setSt (countDown s.st)

/-- A press resolves a pending wait by writing the key's index into the awaited register (R289). -/
def resolveWait (k : Nat) (s : State) : State :=
  match s.wait with
  | .awaitingKey r => (s.setReg r (BitVec.ofNat 8 k)).setWait .ready
  | .ready => s

/-- `KeyEvent(k, pressed)`: records the key's state, and a press resolves a wait; an index above 15 is returned to the host as
`InvalidKeyIndex` (R289, R290; D17, notes/assumptions/15.md). -/
def keyEvent (k : Nat) (pressed : Bool) (s : State) : Host.Outcome State Fault Refusal :=
  complete (checkKey none k)
    (if pressed then resolveWait k (s.setKey (Fin.ofNat 16 k) true) else s.setKey (Fin.ofNat 16 k) false)

/-- What the host holds after an event: the state, and `Ok` or the fault. A fault leaves the state exactly as it was before the event
(R280, D3; notes/assumptions/5.md). -/
def hostView (o : Host.Outcome State Fault Refusal) (s : State) : State × Host.Outcome Unit Fault Refusal :=
  match o with
  | .next t => (t, .next ())
  | .fault f => (s, .fault f)
  | .refused r => (s, .refused r)

/-- The host's `step()`: the state after the request and its result (R291). -/
def stepRequest (s : State) : State × Host.Outcome Unit Fault Refusal := hostView (step s) s

/-- The steps of a batch: at most `budget`, none while waiting for a key, and a fault ends the batch (R292). -/
def batchSteps : Nat → State → State × Host.Outcome Unit Fault Refusal
  | 0, s => (s, .next ())
  | n + 1, s =>
    match s.wait with
    | .awaitingKey _ => (s, .next ())
    | .ready =>
      match step s with
      | .next t => batchSteps n t
      | .fault f => (s, .fault f)
      | .refused r => (s, .refused r)

/-- `Tick(budget)`: the steps, then exactly one timer tick, also when the batch faulted (R292; D18, notes/assumptions/16.md). -/
def batchTick (budget : Nat) (s : State) : State × Host.Outcome Unit Fault Refusal :=
  (timerTick (batchSteps budget s).1, (batchSteps budget s).2)

/-- The framebuffer the host samples: the display itself, with no side effect (45_display.md R257). -/
def framebuffer (s : State) : Display := s.display

/-- What the host can do to a constructed machine. -/
inductive HostEvent where
  /-- Request a step (R291). -/
  | stepRequest
  /-- Deliver a timer tick (R288). -/
  | timerTick
  /-- Deliver a key event (R289). -/
  | keyEvent (k : Nat) (pressed : Bool)
  /-- Run a batch (R292). -/
  | batchTick (budget : Nat)
  deriving DecidableEq, Repr

/-- One host event: the state after it and its result. -/
def deliver (e : HostEvent) (s : State) : State × Host.Outcome Unit Fault Refusal :=
  match e with
  | .stepRequest => stepRequest s
  | .timerTick => (timerTick s, .next ())
  | .keyEvent k pressed => hostView (keyEvent k pressed s) s
  | .batchTick budget => batchTick budget s

/-- Any sequence of host events, from the first to the last; the host goes on after a fault (R283). -/
def runEvents : List HostEvent → State → State
  | [], s => s
  | e :: es, s => runEvents es (deliver e s).1

end Sys2Proof.Machine
end

