-- ==== Sys2Proof/Safety.lean ====
section
/-! DEFINITION. The terms claims are stated in: the pieces of state and what it means that one is unchanged, the invariant of the states
a run can reach, and when two states differ only in the keys or only in the sound timer. -/

namespace Sys2Proof.Machine

/-- The pieces of state, register by register, byte by byte and pixel by pixel. -/
inductive Part where
  | reg (r : RegIdx)
  | index
  | pc
  | delay
  | sound
  | sp
  | slot (k : Fin 16)
  | byte (a : Nat)
  | pixel (r : Fin 32) (c : Fin 64)
  | key (k : Fin 16)
  | wait
  | draws
  | config
  deriving DecidableEq, Repr

/-- The piece of state is the same in `t` as in `s`. -/
def Part.same (s t : State) : Part → Prop
  | .reg r => t.reg r = s.reg r
  | .index => t.index = s.index
  | .pc => t.pc = s.pc
  | .delay => t.dt = s.dt
  | .sound => t.st = s.st
  | .sp => t.sp = s.sp
  | .slot k => t.slot k = s.slot k
  | .byte a => t.byte a = s.byte a
  | .pixel r c => t.pixel r c = s.pixel r c
  | .key k => t.key k = s.key k
  | .wait => t.wait = s.wait
  | .draws => t.draws = s.draws
  | .config => t.cfg = s.cfg

/-- Every piece of state that `changed` does not name is the same in `t` as in `s`: the frame of an instruction. -/
def OnlyChanges (changed : Part → Prop) (s t : State) : Prop := ∀ p : Part, ¬ changed p → p.same s t

/-- `p` is one of the bytes `a`, ..., `a + n - 1`. -/
def Part.inBytes (a n : Nat) (p : Part) : Prop := ∃ k, k < n ∧ p = .byte (a + k)

/-- Sprite bit (`row`, `col`) of DXYN falls on the pixel in row `r`, column `c` (45_display.md R250, R255). -/
def State.covers (s : State) (x y : RegIdx) (n : Nibble) (row col : Nat) (r : Fin 32) (c : Fin 64) : Prop :=
  row < n.val ∧ col < 8 ∧ r.val = ((s.reg y).toNat + row) % 32 ∧ c.val = ((s.reg x).toNat + col) % 64

/-- Sprite bit (`row`, `col`) of the sprite at `I`, most significant bit first (45_display.md R250). -/
def State.spriteOn (s : State) (row col : Nat) : Bool := (s.byte (s.effectiveAddress row)).getLsbD (7 - col)

/-- `t` is a legal control-transfer target (43_control_flow.md R210). -/
def legalTarget (cfg : Config) (t : Nat) : Prop := 0x200 ≤ t ∧ t ≤ 0xFFE ∧ (cfg.strictAlign = true → t % 2 = 0)

/-- A store of `n` bytes from `a` is legal: within the bank, and outside the glyph table where that is refused (20_memory.md R76, R77). -/
def legalStore (cfg : Config) (a n : Nat) : Prop := a + n ≤ memSize ∧ (cfg.glyphWrite = .fault → 0x04F < a)

/-- A return address a CALL can have pushed: it was fetched from, so it is at most 0xFFD, and even where the alignment check is on
(10_state.md R36, 43_control_flow.md R213). -/
def returnAddressOk (cfg : Config) (a : Word) : Prop :=
  a.toNat ≤ 0xFFD ∧ (cfg.strictAlign = true → a.toNat % 2 = 0)

/-- The invariant of every state a constructed machine can reach (10_state.md R36, 70_reset_and_hazards.md R318): memory in its canonical
form, `pc` at most 0x1001 and even under `STRICT_ALIGN`, and every live stack slot a return address. -/
structure State.Inv (s : State) : Prop where
  mem_wf : s.mem.wf = true
  pc_bound : s.pc.toNat ≤ 0x1001
  pc_even : s.cfg.strictAlign = true → s.pc.toNat % 2 = 0
  slots_ok : ∀ k : Fin 16, 1 ≤ k.val → k.val ≤ s.sp.val → returnAddressOk s.cfg (s.slot k)

/-- The state of an outcome, where it is a next state. -/
def nextState? (o : Host.Outcome State Fault Refusal) : Option State :=
  match o with
  | .next t => some t
  | .fault _ => none
  | .refused _ => none

/-- The fault of an outcome, where it is one. -/
def faultOf? (o : Host.Outcome State Fault Refusal) : Option Fault :=
  match o with
  | .next _ => none
  | .fault f => some f
  | .refused _ => none

/-- An outcome with its next state changed by `f`. -/
def mapNext (f : State → State) (o : Host.Outcome State Fault Refusal) : Host.Outcome State Fault Refusal :=
  match o with
  | .next t => .next (f t)
  | .fault e => .fault e
  | .refused r => .refused r

/-- `s` with the keys replaced. -/
def State.withKeys (s : State) (k : Vector Bool 16) : State := { s with keys := k }

/-- `s` with the sound timer replaced. -/
def State.withSound (s : State) (b : Byte) : State := { s with st := b }

/-- The instruction writes VF as a flag (10_state.md R33, 42_alu.md R193). -/
def writesFlag : Instr → Bool
  | .addReg _ _ => true
  | .subReg _ _ => true
  | .subn _ _ => true
  | .shr _ _ => true
  | .shl _ _ => true
  | .drw _ _ _ => true
  | .sys _ => false
  | .cls => false
  | .ret => false
  | .jp _ => false
  | .call _ => false
  | .seByte _ _ => false
  | .sneByte _ _ => false
  | .seReg _ _ => false
  | .ldByte _ _ => false
  | .addByte _ _ => false
  | .ldReg _ _ => false
  | .orReg _ _ => false
  | .andReg _ _ => false
  | .xorReg _ _ => false
  | .sneReg _ _ => false
  | .ldI _ => false
  | .jpV0 _ => false
  | .rnd _ _ => false
  | .skp _ => false
  | .sknp _ => false
  | .ldVxDt _ => false
  | .ldVxK _ => false
  | .ldDtVx _ => false
  | .ldStVx _ => false
  | .addI _ => false
  | .ldF _ => false
  | .ldB _ => false
  | .ldMemVx _ => false
  | .ldVxMem _ => false

/-- The registers an instruction writes as an ordinary destination (its `X` field, or V0..VX for the register fill). -/
def destination (i : Instr) (r : RegIdx) : Bool :=
  match i with
  | .ldByte x _ => r == x
  | .addByte x _ => r == x
  | .ldReg x _ => r == x
  | .orReg x _ => r == x
  | .andReg x _ => r == x
  | .xorReg x _ => r == x
  | .addReg x _ => r == x
  | .subReg x _ => r == x
  | .shr x _ => r == x
  | .subn x _ => r == x
  | .shl x _ => r == x
  | .rnd x _ => r == x
  | .ldVxDt x => r == x
  | .ldVxMem x => decide (r ≤ x)
  | .sys _ => false
  | .cls => false
  | .ret => false
  | .jp _ => false
  | .call _ => false
  | .seByte _ _ => false
  | .sneByte _ _ => false
  | .seReg _ _ => false
  | .sneReg _ _ => false
  | .ldI _ => false
  | .jpV0 _ => false
  | .drw _ _ _ => false
  | .skp _ => false
  | .sknp _ => false
  | .ldVxK _ => false
  | .ldDtVx _ => false
  | .ldStVx _ => false
  | .addI _ => false
  | .ldF _ => false
  | .ldB _ => false
  | .ldMemVx _ => false

end Sys2Proof.Machine
end

