-- ==== Sys2Proof/Certificates/Slice0/Obligations.lean ====
section
/-! DEFINITION. The statements for the provers. Each docstring says what the statement formalises; the basis and the rules or sections cited
are in OBLIGATIONS.json. A statement holds for every setting of the open parameters, since it holds for every state. -/

open Sys2Proof Sys2Proof.Machine

/-! ## Encoding and decoding -/

/-- Decoding the encoding of any well-formed instruction gives it back -/
def Obligations.DecodeOfEncodeIsTheInstruction : Prop :=
  ∀ (i : Instr) (rest : List Byte), i.wellFormed = true →
    decode (encode i) = .ok i ∧ decodeBytes (encodeBytes i ++ rest) = .ok (i, rest)

/-- Every word that decodes is the encoding of the instruction it decodes to. That no bit is dropped, the exactness of the sub-opcode masks,
is the spec's own decision D21 (30_encoding.md R110), and most opcode numbers are general knowledge (G1, G2): notes/assumptions/9.md. -/
def Obligations.EncodeOfDecodeIsTheWord : Prop :=
  ∀ (w : Word) (i : Instr), decode w = .ok i → encode i = w ∧ i.wellFormed = true

/-- A word decodes exactly when a row of the opcode map selects it, to an instruction of that row, and rows do not overlap. The exact masks
are the spec's decision D21 (30_encoding.md R110) and most opcode numbers are general knowledge (G1, G2): notes/assumptions/9.md. -/
def Obligations.DecodeFollowsTheOpcodeMap : Prop :=
  (∀ w : Word, (∃ i, decode w = .ok i) ↔ (sysRow.selects w = true ∨ ∃ r ∈ exactRows, r.selects w = true)) ∧
  (∀ (w : Word) (i : Instr), decode w = .ok i → (opcodeRow i).selects w = true) ∧
  (∀ (w : Word) (nnn : Addr12), (∃ r ∈ exactRows, r.selects w = true) → decode w ≠ .ok (.sys nnn)) ∧
  (∀ w : Word, ∀ r ∈ exactRows, ∀ r' ∈ exactRows, r.selects w = true → r'.selects w = true → r = r')

/-- The words that decode to nothing are exactly the five groups of 30_encoding.md R110, whose exact masks are the spec's decision D21 (notes/assumptions/9.md). -/
def Obligations.IllegalWordsAreTheFiveGroups : Prop :=
  ∀ w : Word,
    ((∃ e, decode w = .error e) ↔
      ((w.toNat / 4096 = 5 ∨ w.toNat / 4096 = 9) ∧ w.toNat % 16 ≠ 0) ∨
      (w.toNat / 4096 = 8 ∧ w.toNat % 16 ∈ [8, 9, 0xA, 0xB, 0xC, 0xD, 0xF]) ∨
      (w.toNat / 4096 = 0xE ∧ w.toNat % 256 ∉ [0x9E, 0xA1]) ∨
      (w.toNat / 4096 = 0xF ∧ w.toNat % 256 ∉ [0x07, 0x0A, 0x15, 0x18, 0x1E, 0x29, 0x33, 0x55, 0x65])) ∧
    (∀ e, decode w = .error e → e = .decodeFailure w)

/-- The fields O, X, Y, N, KK and NNN are the slices of the word the spec gives -/
def Obligations.FieldsAreTheSlicesOfTheWord : Prop :=
  ∀ w : Word,
    (fieldO w).toNat = w.toNat / 4096 ∧ (fieldX w).val = w.toNat / 256 % 16 ∧ (fieldY w).val = w.toNat / 16 % 16 ∧
    (fieldN w).toNat = w.toNat % 16 ∧ (fieldKK w).toNat = w.toNat % 256 ∧ (fieldNNN w).toNat = w.toNat % 4096 ∧
    (fieldNNN w).toNat = 256 * (fieldX w).val + (fieldKK w).toNat

/-- Words written out from the encodings decode to the instructions they stand for, one or more per family. A200, F029 and 8126 are the
source's words; the numbers of the others are general knowledge (G1, G2) and that 5121 is illegal is the spec's decision D21:
notes/assumptions/9.md. -/
def Obligations.SpecWordsDecodeAsTheSpecSays : Prop :=
  decode 0xA200 = .ok (.ldI 0x200) ∧ decode 0xF029 = .ok (.ldF 0) ∧ decode 0x8126 = .ok (.shr 1 2) ∧
  decode 0x0123 = .ok (.sys 0x123) ∧ decode 0x00E0 = .ok .cls ∧ decode 0x00EE = .ok .ret ∧ decode 0x2ABC = .ok (.call 0xABC) ∧
  decode 0x3A2C = .ok (.seByte 0xA 0x2C) ∧ decode 0x7A2C = .ok (.addByte 0xA 0x2C) ∧ decode 0xDAB5 = .ok (.drw 0xA 0xB 5) ∧
  decode 0xEAA1 = .ok (.sknp 0xA) ∧ decode 0xFA0A = .ok (.ldVxK 0xA) ∧ decode 0xFA65 = .ok (.ldVxMem 0xA) ∧
  decode 0x5121 = .error (.decodeFailure 0x5121)

/-! ## The step -/

/-- A step runs the instruction whose bytes stand at the program counter -/
def Obligations.StepRunsTheDecodedInstruction : Prop :=
  ∀ (s : State) (i : Instr), s.wait = .ready → s.pc.toNat + 2 ≤ memSize →
    (i.wellFormed = true → [s.byte s.pc.toNat, s.byte (s.pc.toNat + 1)] = encodeBytes i → step s = exec i s) ∧
    (decode (wordOfBytes (s.byte s.pc.toNat) (s.byte (s.pc.toNat + 1))) = .ok i → step s = exec i s)

/-- The word placed by `withFetchWord`, the model's own loading device (notes/assumptions/7.md), is the instruction the very next step runs. -/
def Obligations.PlacedWordRunsNext : Prop :=
  ∀ (s : State) (w : Nat) (i : Instr), decodeTableWord 16 w = some i →
    step (s.withFetchWord 16 w) = exec i (s.withFetchWord 16 w) ∧
    OnlyChanges (fun p => p = .wait ∨ p = .pc ∨ p.inBytes (s.withFetchWord 16 w).pc.toNat 2) s (s.withFetchWord 16 w) ∧
    (s.pc.toNat + 2 ≤ memSize → (s.withFetchWord 16 w).pc = s.pc)

/-- The instruction word is assembled big-endian from the two bytes at pc -/
def Obligations.FetchIsBigEndian : Prop :=
  (∀ s : State, s.fetchWord.toNat / 256 = (s.byte s.pc.toNat).toNat ∧ s.fetchWord.toNat % 256 = (s.byte (s.pc.toNat + 1)).toNat) ∧
  (∀ s : State, s.pc = 0x200 → s.byte 0x200 = 0xA2 → s.byte 0x201 = 0x00 → s.fetchWord = 0xA200)

/-- A step taken while the engine awaits a key succeeds (the spec's decision D30, notes/assumptions/15.md) and changes nothing. -/
def Obligations.WaitingStepDoesNothing : Prop :=
  ∀ (s : State) (r : RegIdx), s.wait = .awaitingKey r → step s = .next s

/-- A fetch outside the bank raises OutOfBoundsAddress with its lowest offending address (the spec's decision D4, notes/assumptions/11.md). -/
def Obligations.FetchPastTheBankFaults : Prop :=
  ∀ s : State, s.wait = .ready →
    (s.pc.toNat = 0xFFE → step s = .fault (.outOfBoundsAddress 0xFFF none)) ∧
    (0xFFF ≤ s.pc.toNat → step s = .fault (.outOfBoundsAddress s.pc.toNat none))

/-- A fetched word that decodes to nothing raises DecodeFailure carrying that word -/
def Obligations.UndecodableWordFaults : Prop :=
  ∀ (s : State) (e : DecodeError), s.wait = .ready → s.pc.toNat + 2 ≤ memSize → decode s.fetchWord = .error e →
    step s = .fault (.decodeFailure s.fetchWord none)

/-- No step is refused: every word has its meaning or its fault -/
def Obligations.StepNeverRefuses : Prop :=
  (∀ (s : State) (r : Refusal), step s ≠ .refused r) ∧ (∀ (i : Instr) (s : State) (r : Refusal), exec i s ≠ .refused r)

/-- A jump to its own address leaves the whole state as it was -/
def Obligations.SelfJumpIsAFixedPoint : Prop :=
  ∀ (s : State) (nnn : Addr12), s.wait = .ready → s.pc.toNat + 2 ≤ memSize → decode s.fetchWord = .ok (.jp nnn) →
    nnn.toNat = s.pc.toNat → legalTarget s.cfg s.pc.toNat → step s = .next s

/-! ## Construction and reset -/

/-- The reset state holds the construction values, the 80 glyph bytes of 20_memory.md R72 written out among them. The zeros outside memory are
the spec's decision D1 (notes/assumptions/3.md), the glyphs' placement is D19 and their bitmaps are general knowledge, G4
(notes/assumptions/8.md), the parameter setting is notes/assumptions/1.md. -/
def Obligations.ResetHoldsTheConstructionValues : Prop :=
  construct State.reset.cfg [] = .next State.reset ∧ State.reset.pc = 0x200 ∧ State.reset.wait = .ready ∧
  (List.range 80).map State.reset.byte =
    [0xF0, 0x90, 0x90, 0x90, 0xF0] ++ [0x20, 0x60, 0x20, 0x20, 0x70] ++ [0xF0, 0x10, 0xF0, 0x80, 0xF0] ++ [0xF0, 0x10, 0xF0, 0x10, 0xF0] ++
    [0x90, 0x90, 0xF0, 0x10, 0x10] ++ [0xF0, 0x80, 0xF0, 0x10, 0xF0] ++ [0xF0, 0x80, 0xF0, 0x90, 0xF0] ++ [0xF0, 0x10, 0x20, 0x40, 0x40] ++
    [0xF0, 0x90, 0xF0, 0x90, 0xF0] ++ [0xF0, 0x90, 0xF0, 0x10, 0xF0] ++ [0xF0, 0x90, 0xF0, 0x90, 0x90] ++ [0xE0, 0x90, 0xE0, 0x90, 0xE0] ++
    [0xF0, 0x80, 0x80, 0x80, 0xF0] ++ [0xE0, 0x90, 0x90, 0x90, 0xE0] ++ [0xF0, 0x80, 0xF0, 0x80, 0xF0] ++ [0xF0, 0x80, 0xF0, 0x80, 0x80] ∧
  (∀ a, 0x50 ≤ a → State.reset.byte a = 0) ∧ (∀ r, State.reset.reg r = 0) ∧ State.reset.index = 0 ∧ State.reset.dt = 0 ∧
  State.reset.st = 0 ∧ State.reset.sp = 0 ∧ (∀ k, State.reset.slot k = 0) ∧ (∀ r c, State.reset.pixel r c = false) ∧
  (∀ k, State.reset.key k = false) ∧ State.reset.cfg = ⟨.vx, true, .fault, .fault⟩

/-- Construction copies an image that fits from 0x200 and refuses one that does not (the spec's decision D26, notes/assumptions/21.md). -/
def Obligations.ConstructLoadsTheImage : Prop :=
  ∀ (cfg : Config) (image : List Byte),
    (image.length ≤ 3583 → ∃ t, construct cfg image = .next t ∧ t.pc = 0x200 ∧ t.wait = .ready ∧ t.cfg = cfg ∧
      (∀ (j : Nat) (h : j < image.length), t.byte (0x200 + j) = image[j]) ∧
      OnlyChanges (fun p => p = .config ∨ p.inBytes 0x200 image.length) State.reset t) ∧
    (3583 < image.length → construct cfg image = .refused (.imageTooLong image.length))

/-! ## Index register and memory -/

/-- ANNN loads I with the zero-extended address and changes nothing else but pc -/
def Obligations.LoadIndexSetsI : Prop :=
  ∀ (s : State) (nnn : Addr12), ∃ t, exec (.ldI nnn) s = .next t ∧ t.index.toNat = nnn.toNat ∧ t.pc = s.pc + 2 ∧
    OnlyChanges (· ∈ [.index, .pc]) s t ∧ (encode (.ldI nnn)).toNat = 0xA000 + nnn.toNat

/-- FX1E adds Vx to I, wrapping at 16 bits (the spec's decision D13, notes/assumptions/13.md), and writes no flag. -/
def Obligations.AddIndexWrapsWithoutFlag : Prop :=
  ∀ (s : State) (x : RegIdx), ∃ t, exec (.addI x) s = .next t ∧ t.index.toNat = (s.index.toNat + (s.reg x).toNat) % 65536 ∧
    t.pc = s.pc + 2 ∧ OnlyChanges (· ∈ [.index, .pc]) s t

/-- FX29 points I at the digit's glyph, at 5 Vx by the spec's decision D19 (notes/assumptions/8.md), and faults on a value above 15. -/
def Obligations.GlyphAddressOfADigit : Prop :=
  ∀ (s : State) (x : RegIdx),
    ((s.reg x).toNat ≤ 15 → ∃ t, exec (.ldF x) s = .next t ∧ t.index.toNat = 5 * (s.reg x).toNat ∧ t.pc = s.pc + 2 ∧
      OnlyChanges (· ∈ [.index, .pc]) s t) ∧
    (15 < (s.reg x).toNat → exec (.ldF x) s = .fault (.noSuchDigitSprite (s.reg x) (some (.ldF x))))

/-- FX33 stores the three decimal digits of Vx and changes nothing else but pc. Which ranges are legal rests on the spec's decisions D4 and D5,
I unchanged on D14 (notes/assumptions/11.md, 13.md). -/
def Obligations.DecimalStoreWritesThreeDigits : Prop :=
  ∀ (s : State) (x : RegIdx), legalStore s.cfg (s.effectiveAddress 0) 3 → ∃ t, exec (.ldB x) s = .next t ∧
    (t.byte (s.effectiveAddress 0)).toNat = (s.reg x).toNat / 100 ∧
    (t.byte (s.effectiveAddress 1)).toNat = (s.reg x).toNat / 10 % 10 ∧
    (t.byte (s.effectiveAddress 2)).toNat = (s.reg x).toNat % 10 ∧
    t.pc = s.pc + 2 ∧ OnlyChanges (fun p => p = .pc ∨ p.inBytes (s.effectiveAddress 0) 3) s t

/-- FX55 stores V0..VX inclusive at I and changes nothing else but pc. Legal ranges by the spec's decisions D4 and D5, I unchanged by D14
(notes/assumptions/11.md, 13.md). -/
def Obligations.SpillStoresRegistersInclusive : Prop :=
  ∀ (s : State) (x : RegIdx), legalStore s.cfg (s.effectiveAddress 0) (x.val + 1) → ∃ t, exec (.ldMemVx x) s = .next t ∧
    (∀ k : RegIdx, k ≤ x → t.byte (s.effectiveAddress k.val) = s.reg k) ∧
    t.pc = s.pc + 2 ∧ OnlyChanges (fun p => p = .pc ∨ p.inBytes (s.effectiveAddress 0) (x.val + 1)) s t

/-- FX65 loads V0..VX inclusive from I and changes nothing else but pc. The bank check is by the spec's decision D4, I unchanged by D14
(notes/assumptions/11.md, 13.md). -/
def Obligations.FillLoadsRegistersInclusive : Prop :=
  ∀ (s : State) (x : RegIdx), s.effectiveAddress 0 + (x.val + 1) ≤ memSize → ∃ t, exec (.ldVxMem x) s = .next t ∧
    (∀ k : RegIdx, k ≤ x → t.reg k = s.byte (s.effectiveAddress k.val)) ∧
    t.pc = s.pc + 2 ∧ OnlyChanges (fun p => p = .pc ∨ ∃ k : RegIdx, k ≤ x ∧ p = .reg k) s t

/-- FX33, FX55 and FX65 fault on a range past the bank, and the two stores on one that enters the glyph table: the spec's decisions D4 and
D5 (notes/assumptions/11.md). -/
def Obligations.MemoryRangeFaults : Prop :=
  ∀ (s : State) (x : RegIdx),
    (memSize < s.effectiveAddress 0 + 3 →
      exec (.ldB x) s = .fault (.outOfBoundsAddress (max s.index.toNat 0xFFF) (some (.ldB x)))) ∧
    (memSize < s.effectiveAddress 0 + (x.val + 1) →
      exec (.ldMemVx x) s = .fault (.outOfBoundsAddress (max s.index.toNat 0xFFF) (some (.ldMemVx x))) ∧
      exec (.ldVxMem x) s = .fault (.outOfBoundsAddress (max s.index.toNat 0xFFF) (some (.ldVxMem x)))) ∧
    (s.cfg.glyphWrite = .fault → s.index.toNat ≤ 0x04F →
      exec (.ldB x) s = .fault (.outOfBoundsAddress s.index.toNat (some (.ldB x))) ∧
      exec (.ldMemVx x) s = .fault (.outOfBoundsAddress s.index.toNat (some (.ldMemVx x))))

/-- Filling registers from memory and spilling them back leaves every byte of memory as it was; it needs I unchanged, the spec's decision
D14 (notes/assumptions/13.md). -/
def Obligations.FillThenSpillRestoresMemory : Prop :=
  ∀ (s t u : State) (x : RegIdx),
    (exec (.ldVxMem x) s = .next t → exec (.ldMemVx x) t = .next u → (∀ a, u.byte a = s.byte a) ∧ u.index = s.index) ∧
    (exec (.ldMemVx x) s = .next t → exec (.ldVxMem x) t = .next u → (∀ r, u.reg r = s.reg r) ∧ u.index = s.index)

/-- An instruction that a register spill stores just ahead of pc is the one the next step runs -/
def Obligations.StoredInstructionRunsNext : Prop :=
  ∀ (s t : State) (x k k' : RegIdx) (i : Instr), s.wait = .ready → exec (.ldMemVx x) s = .next t →
    k'.val = k.val + 1 → k' ≤ x → s.effectiveAddress k.val = s.pc.toNat + 2 →
    decode (wordOfBytes (s.reg k) (s.reg k')) = .ok i → step t = exec i t

/-! ## Register arithmetic and logic -/

/-- 6XKK, 7XKK and 8XY0 write Vx with the byte, the wrapped sum and the copy, with no flag. The number and behaviour of 6XKK and the number of
7XKK are general knowledge (G1, G3; notes/assumptions/9.md). -/
def Obligations.PlainRegisterWrites : Prop :=
  ∀ (s : State) (x y : RegIdx) (kk : Byte),
    (∃ t, exec (.ldByte x kk) s = .next t ∧ t.reg x = kk ∧ t.pc = s.pc + 2 ∧ OnlyChanges (· ∈ [.reg x, .pc]) s t) ∧
    (∃ t, exec (.addByte x kk) s = .next t ∧ (t.reg x).toNat = ((s.reg x).toNat + kk.toNat) % 256 ∧ t.pc = s.pc + 2 ∧
      OnlyChanges (· ∈ [.reg x, .pc]) s t) ∧
    (∃ t, exec (.ldReg x y) s = .next t ∧ t.reg x = s.reg y ∧ t.pc = s.pc + 2 ∧ OnlyChanges (· ∈ [.reg x, .pc]) s t) ∧
    (encode (.ldByte x kk)).toNat = 0x6000 + 256 * x.val + kk.toNat ∧
    (encode (.addByte x kk)).toNat = 0x7000 + 256 * x.val + kk.toNat ∧
    (encode (.ldReg x y)).toNat = 0x8000 + 256 * x.val + 16 * y.val

/-- 8XY1, 8XY2 and 8XY3 write the bitwise OR, AND and XOR to Vx. Their behaviour is general knowledge (G3, notes/assumptions/9.md); that VF is
left alone is the spec's decision D12 (notes/assumptions/10.md). -/
def Obligations.LogicWritesVxOnly : Prop :=
  ∀ (s : State) (x y : RegIdx),
    (∃ t, exec (.orReg x y) s = .next t ∧ (∀ k, (t.reg x).getLsbD k = ((s.reg x).getLsbD k || (s.reg y).getLsbD k)) ∧
      t.pc = s.pc + 2 ∧ OnlyChanges (· ∈ [.reg x, .pc]) s t) ∧
    (∃ t, exec (.andReg x y) s = .next t ∧ (∀ k, (t.reg x).getLsbD k = ((s.reg x).getLsbD k && (s.reg y).getLsbD k)) ∧
      t.pc = s.pc + 2 ∧ OnlyChanges (· ∈ [.reg x, .pc]) s t) ∧
    (∃ t, exec (.xorReg x y) s = .next t ∧ (∀ k, (t.reg x).getLsbD k = ((s.reg x).getLsbD k ^^ (s.reg y).getLsbD k)) ∧
      t.pc = s.pc + 2 ∧ OnlyChanges (· ∈ [.reg x, .pc]) s t)

/-- 8XY4 writes the sum to Vx and then the carry to VF; the order matters for X = F and is the spec's decision D11 (notes/assumptions/10.md). -/
def Obligations.AddWritesSumThenCarry : Prop :=
  ∀ (s : State) (x y : RegIdx), ∃ t, exec (.addReg x y) s = .next t ∧
    t.reg vf = (if 256 ≤ (s.reg x).toNat + (s.reg y).toNat then 1 else 0) ∧
    (x ≠ vf → (t.reg x).toNat = ((s.reg x).toNat + (s.reg y).toNat) % 256) ∧
    t.pc = s.pc + 2 ∧ OnlyChanges (· ∈ [.reg x, .reg vf, .pc]) s t

/-- 8XY5 and 8XY7 write the difference to Vx and then NOT-borrow to VF. The operand order Vy - Vx of 8XY7 is general knowledge (G3,
notes/assumptions/9.md); the order of the two writes matters for X = F and is the spec's decision D11 (notes/assumptions/10.md). -/
def Obligations.SubtractWritesDifferenceThenNotBorrow : Prop :=
  ∀ (s : State) (x y : RegIdx),
    (∃ t, exec (.subReg x y) s = .next t ∧ t.reg vf = (if (s.reg y).toNat ≤ (s.reg x).toNat then 1 else 0) ∧
      (x ≠ vf → (t.reg x).toNat = if (s.reg y).toNat ≤ (s.reg x).toNat then (s.reg x).toNat - (s.reg y).toNat
        else (s.reg x).toNat + 256 - (s.reg y).toNat) ∧
      t.pc = s.pc + 2 ∧ OnlyChanges (· ∈ [.reg x, .reg vf, .pc]) s t) ∧
    (∃ t, exec (.subn x y) s = .next t ∧ t.reg vf = (if (s.reg x).toNat ≤ (s.reg y).toNat then 1 else 0) ∧
      (x ≠ vf → (t.reg x).toNat = if (s.reg x).toNat ≤ (s.reg y).toNat then (s.reg y).toNat - (s.reg x).toNat
        else (s.reg y).toNat + 256 - (s.reg x).toNat) ∧
      t.pc = s.pc + 2 ∧ OnlyChanges (· ∈ [.reg x, .reg vf, .pc]) s t)

/-- 8XY6 and 8XYE write the bit shifted out to VF and then the shifted operand to Vx, under both settings of SHIFT_SRC (D10,
notes/assumptions/1.md); X = F by the spec's decision D11 (notes/assumptions/10.md). -/
def Obligations.ShiftsWriteFlagThenResult : Prop :=
  ∀ (s : State) (x y : RegIdx) (b : Byte), (s.cfg.shiftSrc = .vx → b = s.reg x) → (s.cfg.shiftSrc = .vy → b = s.reg y) →
    (∃ t, exec (.shr x y) s = .next t ∧ (t.reg x).toNat = b.toNat / 2 ∧ (x ≠ vf → (t.reg vf).toNat = b.toNat % 2) ∧
      t.pc = s.pc + 2 ∧ OnlyChanges (· ∈ [.reg x, .reg vf, .pc]) s t) ∧
    (∃ t, exec (.shl x y) s = .next t ∧ (t.reg x).toNat = 2 * b.toNat % 256 ∧ (x ≠ vf → (t.reg vf).toNat = b.toNat / 128) ∧
      t.pc = s.pc + 2 ∧ OnlyChanges (· ∈ [.reg x, .reg vf, .pc]) s t)

/-- CXKK writes the free random byte ANDed with KK to Vx, for every random byte. The draw counter is the model's own (notes/assumptions/2.md). -/
def Obligations.RandomByteIsMasked : Prop :=
  ∀ (s : State) (x : RegIdx) (kk : Byte),
    (∃ t, exec (.rnd x kk) s = .next t ∧ t.reg x = (Config.freeByte s.draws &&& kk) ∧
      (∀ k, kk.getLsbD k = false → (t.reg x).getLsbD k = false) ∧ t.pc = s.pc + 2 ∧ t.draws = s.draws + 1 ∧
      OnlyChanges (· ∈ [.reg x, .pc, .draws]) s t) ∧
    (∀ r : Byte, (rndWith r x kk s).reg x = (r &&& kk))

/-- An instruction changes a register only as its destination, or VF as its flag. That the logic operations write no flag is the spec's
decision D12 (notes/assumptions/10.md). -/
def Obligations.RegistersChangeOnlyAsDestinationOrFlag : Prop :=
  ∀ (i : Instr) (s t : State) (r : RegIdx), exec i s = .next t → destination i r = false → (r = vf → writesFlag i = false) →
    t.reg r = s.reg r

/-! ## Control flow -/

/-- 1NNN and BNNN set pc to a legal target and change nothing else. Which targets are legal rests on the spec's decisions D6 and D7
(notes/assumptions/12.md). -/
def Obligations.JumpSetsPcToTheTarget : Prop :=
  ∀ (s : State) (nnn : Addr12),
    (legalTarget s.cfg nnn.toNat → ∃ t, exec (.jp nnn) s = .next t ∧ t.pc.toNat = nnn.toNat ∧ OnlyChanges (· ∈ [.pc]) s t) ∧
    (legalTarget s.cfg (nnn.toNat + (s.reg 0).toNat) → ∃ t, exec (.jpV0 nnn) s = .next t ∧
      t.pc.toNat = nnn.toNat + (s.reg 0).toNat ∧ OnlyChanges (· ∈ [.pc]) s t)

/-- 1NNN, BNNN and 2NNN raise OutOfBoundsAddress for a target out of range, else UnevenAddress for an odd one: the spec's decisions D6, D7
and D8 (notes/assumptions/12.md). -/
def Obligations.IllegalTargetsFault : Prop :=
  ∀ (s : State) (nnn : Addr12),
    (nnn.toNat < 0x200 ∨ 0xFFE < nnn.toNat →
      exec (.jp nnn) s = .fault (.outOfBoundsAddress nnn.toNat (some (.jp nnn))) ∧
      (s.sp ≠ 15 → exec (.call nnn) s = .fault (.outOfBoundsAddress nnn.toNat (some (.call nnn))))) ∧
    (0x200 ≤ nnn.toNat → nnn.toNat ≤ 0xFFE → s.cfg.strictAlign = true → nnn.toNat % 2 = 1 →
      exec (.jp nnn) s = .fault (.unevenAddress nnn.toNat (some (.jp nnn))) ∧
      (s.sp ≠ 15 → exec (.call nnn) s = .fault (.unevenAddress nnn.toNat (some (.call nnn))))) ∧
    (nnn.toNat + (s.reg 0).toNat < 0x200 ∨ 0xFFE < nnn.toNat + (s.reg 0).toNat →
      exec (.jpV0 nnn) s = .fault (.outOfBoundsAddress (nnn.toNat + (s.reg 0).toNat) (some (.jpV0 nnn)))) ∧
    (0x200 ≤ nnn.toNat + (s.reg 0).toNat → nnn.toNat + (s.reg 0).toNat ≤ 0xFFE → s.cfg.strictAlign = true →
      (nnn.toNat + (s.reg 0).toNat) % 2 = 1 →
      exec (.jpV0 nnn) s = .fault (.unevenAddress (nnn.toNat + (s.reg 0).toNat) (some (.jpV0 nnn))))

/-- 2NNN pushes its own address and jumps; with SP = 15 it raises StackOverflow. The target check and the priority are the spec's decisions
D6 and D8 (notes/assumptions/12.md). -/
def Obligations.CallPushesItsOwnAddress : Prop :=
  ∀ (s : State) (nnn : Addr12),
    (s.sp ≠ 15 → legalTarget s.cfg nnn.toNat → ∃ t, exec (.call nnn) s = .next t ∧ t.sp.val = s.sp.val + 1 ∧
      t.slot t.sp = s.pc ∧ t.pc.toNat = nnn.toNat ∧ OnlyChanges (· ∈ [.sp, .slot t.sp, .pc]) s t) ∧
    (s.sp = 15 → exec (.call nnn) s = .fault (.stackOverflow (some (.call nnn))))

/-- 00EE pops the return address and resumes two bytes after it; on an empty stack it raises StackUnderflow. The literal 0x00EE is general
knowledge (G2, notes/assumptions/9.md) and that the fault carries the instruction is the spec's decision D23 (notes/assumptions/18.md). -/
def Obligations.ReturnResumesAfterTheCall : Prop :=
  ∀ s : State,
    (s.sp ≠ 0 → ∃ t, exec .ret s = .next t ∧ t.pc = s.slot s.sp + 2 ∧ t.sp.val + 1 = s.sp.val ∧ OnlyChanges (· ∈ [.sp, .pc]) s t) ∧
    (s.sp = 0 → exec .ret s = .fault (.stackUnderflow (some .ret))) ∧ encode .ret = 0x00EE

/-- A call followed by a return advances pc by 2 and restores the stack pointer -/
def Obligations.CallThenReturnIsANormalAdvance : Prop :=
  ∀ (s t : State) (nnn : Addr12), exec (.call nnn) s = .next t → ∃ u, exec .ret t = .next u ∧ u.pc = s.pc + 2 ∧ u.sp = s.sp ∧
    OnlyChanges (· ∈ [.pc, .slot (s.sp + 1)]) s u

/-- 3XKK, 4XKK, 5XY0 and 9XY0 advance pc by 4 when their condition holds and by 2 when it does not. The four numbers and the four conditions
are general knowledge (G1, G3; notes/assumptions/9.md). -/
def Obligations.RegisterSkipsDoubleAdvance : Prop :=
  ∀ (s : State) (x y : RegIdx) (kk : Byte),
    (∃ t, exec (.seByte x kk) s = .next t ∧ t.pc = (if s.reg x = kk then s.pc + 4 else s.pc + 2) ∧ OnlyChanges (· ∈ [.pc]) s t) ∧
    (∃ t, exec (.sneByte x kk) s = .next t ∧ t.pc = (if s.reg x ≠ kk then s.pc + 4 else s.pc + 2) ∧ OnlyChanges (· ∈ [.pc]) s t) ∧
    (∃ t, exec (.seReg x y) s = .next t ∧ t.pc = (if s.reg x = s.reg y then s.pc + 4 else s.pc + 2) ∧ OnlyChanges (· ∈ [.pc]) s t) ∧
    (∃ t, exec (.sneReg x y) s = .next t ∧ t.pc = (if s.reg x ≠ s.reg y then s.pc + 4 else s.pc + 2) ∧ OnlyChanges (· ∈ [.pc]) s t) ∧
    (encode (.seByte x kk)).toNat = 0x3000 + 256 * x.val + kk.toNat ∧
    (encode (.sneByte x kk)).toNat = 0x4000 + 256 * x.val + kk.toNat ∧
    (encode (.seReg x y)).toNat = 0x5000 + 256 * x.val + 16 * y.val ∧
    (encode (.sneReg x y)).toNat = 0x9000 + 256 * x.val + 16 * y.val

/-- 0NNN is a normal advance under SYS_POLICY = nop and a decode failure under fault. The parameter is the spec's decision D9
(notes/assumptions/1.md). That this DecodeFailure carries the decoded instruction is the model's reading of R298 and R110, by which SYS
words decode and fault when executed (DEDUCED, notes/assumptions/18.md). -/
def Obligations.SysFollowsItsPolicy : Prop :=
  ∀ (s : State) (nnn : Addr12),
    (s.cfg.sysPolicy = .nop → ∃ t, exec (.sys nnn) s = .next t ∧ t.pc = s.pc + 2 ∧ OnlyChanges (· ∈ [.pc]) s t) ∧
    (s.cfg.sysPolicy = .fault → exec (.sys nnn) s = .fault (.decodeFailure (BitVec.ofNat 16 nnn.toNat) (some (.sys nnn))))

/-! ## Timers and keys -/

/-- FX07, FX15 and FX18 move a byte between Vx and the timers and change nothing else but pc. Their numbers and behaviours are general
knowledge (G1, G3; notes/assumptions/9.md). -/
def Obligations.TimerInstructionsMoveOneByte : Prop :=
  ∀ (s : State) (x : RegIdx),
    (∃ t, exec (.ldVxDt x) s = .next t ∧ t.reg x = s.dt ∧ t.pc = s.pc + 2 ∧ OnlyChanges (· ∈ [.reg x, .pc]) s t) ∧
    (∃ t, exec (.ldDtVx x) s = .next t ∧ t.dt = s.reg x ∧ t.pc = s.pc + 2 ∧ OnlyChanges (· ∈ [.delay, .pc]) s t) ∧
    (∃ t, exec (.ldStVx x) s = .next t ∧ t.st = s.reg x ∧ t.pc = s.pc + 2 ∧ OnlyChanges (· ∈ [.sound, .pc]) s t) ∧
    (encode (.ldVxDt x)).toNat = 0xF007 + 256 * x.val ∧ (encode (.ldDtVx x)).toNat = 0xF015 + 256 * x.val ∧
    (encode (.ldStVx x)).toNat = 0xF018 + 256 * x.val

/-- EX9E and EXA1 skip on the key Vx names. Which key state each tests is general knowledge (G3, notes/assumptions/9.md); the fault on an
index above 15 is the spec's decision D16 (notes/assumptions/14.md). -/
def Obligations.KeySkipsTestTheNamedKey : Prop :=
  ∀ (s : State) (x : RegIdx),
    (∀ k : Fin 16, (s.reg x).toNat = k.val →
      (∃ t, exec (.skp x) s = .next t ∧ t.pc = (if s.key k = true then s.pc + 4 else s.pc + 2) ∧ OnlyChanges (· ∈ [.pc]) s t) ∧
      (∃ t, exec (.sknp x) s = .next t ∧ t.pc = (if s.key k = false then s.pc + 4 else s.pc + 2) ∧ OnlyChanges (· ∈ [.pc]) s t)) ∧
    (15 < (s.reg x).toNat →
      exec (.skp x) s = .fault (.invalidKeyIndex (s.reg x).toNat (some (.skp x))) ∧
      exec (.sknp x) s = .fault (.invalidKeyIndex (s.reg x).toNat (some (.sknp x))))

/-- FX0A enters AwaitingKey(X) and advances pc at once, the spec's decision D27 (notes/assumptions/15.md). -/
def Obligations.KeyWaitEntersAtOnce : Prop :=
  ∀ (s : State) (x : RegIdx), ∃ t, exec (.ldVxK x) s = .next t ∧ t.wait = .awaitingKey x ∧ t.pc = s.pc + 2 ∧
    OnlyChanges (· ∈ [.wait, .pc]) s t

/-! ## Display -/

/-- 00E0 makes every pixel dark and changes nothing else but pc. The literal 0x00E0, and that clearing makes every pixel dark, are general
knowledge (G2, G3; notes/assumptions/9.md). -/
def Obligations.ClearDarkensEveryPixel : Prop :=
  ∀ s : State, ∃ t, exec .cls s = .next t ∧ (∀ r c, t.pixel r c = false) ∧ t.pc = s.pc + 2 ∧
    OnlyChanges (fun p => p = .pc ∨ ∃ r c, p = .pixel r c) s t ∧ encode .cls = 0x00E0

/-- DXYN inverts exactly the pixels under its 1 bits, wrapping, and VF tells whether any was lit. N = 0, the checks and X or Y = F rest on the
spec's decisions D25, D8, D4 and D11 (notes/assumptions/20.md, 11.md, 10.md); I unchanged is its decision D14 (notes/assumptions/13.md). -/
def Obligations.DrawXorsTheSpriteAndAccumulatesCollision : Prop :=
  ∀ (s : State) (x y : RegIdx) (n : Nibble), (s.reg x).toNat < 64 → (s.reg y).toNat < 32 →
    (n.val = 0 ∨ s.effectiveAddress 0 + n.val ≤ memSize) → ∃ t, exec (.drw x y n) s = .next t ∧
    (∀ row col r c, s.covers x y n row col r c → t.pixel r c = (s.pixel r c ^^ s.spriteOn row col)) ∧
    (t.reg vf = 1 ↔ ∃ row col r c, s.covers x y n row col r c ∧ s.pixel r c = true ∧ s.spriteOn row col = true) ∧
    (t.reg vf = 0 ∨ t.reg vf = 1) ∧ t.pc = s.pc + 2 ∧
    OnlyChanges (fun p => p = .pc ∨ p = .reg vf ∨ ∃ row col r c, s.covers x y n row col r c ∧ p = .pixel r c) s t

/-- DXYN faults on an origin outside the grid first, then on sprite bytes past the bank: the spec's decisions D4 and D8
(notes/assumptions/11.md, 20.md). -/
def Obligations.DrawFaults : Prop :=
  ∀ (s : State) (x y : RegIdx) (n : Nibble),
    (64 ≤ (s.reg x).toNat ∨ 32 ≤ (s.reg y).toNat →
      exec (.drw x y n) s = .fault (.outOfScreenBounds (s.reg x) (s.reg y) (some (.drw x y n)))) ∧
    ((s.reg x).toNat < 64 → (s.reg y).toNat < 32 → 0 < n.val → memSize < s.effectiveAddress 0 + n.val →
      exec (.drw x y n) s = .fault (.outOfBoundsAddress (max s.index.toNat 0xFFF) (some (.drw x y n))))

/-- Drawing the same sprite twice at the same place restores every pixel, and on a dark display reports a collision. The second draw reads the
same sprite because DXYN leaves I unchanged, the spec's decision D14 (notes/assumptions/13.md). -/
def Obligations.DrawingTwiceErases : Prop :=
  ∀ (s t u : State) (x y : RegIdx) (n : Nibble), exec (.drw x y n) s = .next t → exec (.drw x y n) t = .next u →
    t.reg x = s.reg x → t.reg y = s.reg y →
    (∀ r c, u.pixel r c = s.pixel r c) ∧
    ((∀ r c, s.pixel r c = false) → (∃ row col, row < n.val ∧ col < 8 ∧ s.spriteOn row col = true) → t.reg vf = 0 ∧ u.reg vf = 1)

/-! ## Host events -/

/-- A timer tick decrements both timers, saturating at zero, and changes nothing else -/
def Obligations.TimerTickSaturates : Prop :=
  ∀ s : State,
    (timerTick s).dt.toNat = s.dt.toNat - 1 ∧ (timerTick s).st.toNat = s.st.toNat - 1 ∧
    OnlyChanges (· ∈ [.delay, .sound]) s (timerTick s) ∧ deliver .timerTick s = (timerTick s, .next ())

/-- A key event records the key; a press while waiting writes the key's index and ends the wait. Details by the spec's decision D17
(notes/assumptions/15.md). -/
def Obligations.KeyEventRecordsAndResolves : Prop :=
  ∀ (s : State) (k : Nat) (pressed : Bool),
    (15 < k → keyEvent k pressed s = .fault (.invalidKeyIndex k none) ∧
      deliver (.keyEvent k pressed) s = (s, .fault (.invalidKeyIndex k none))) ∧
    (∀ j : Fin 16, k = j.val → ∃ t, keyEvent k pressed s = .next t ∧ t.key j = pressed ∧
      (pressed = false ∨ s.wait = .ready → OnlyChanges (· ∈ [.key j]) s t) ∧
      (∀ r, pressed = true → s.wait = .awaitingKey r → (t.reg r).toNat = k ∧ t.wait = .ready ∧
        OnlyChanges (· ∈ [.key j, .reg r, .wait]) s t))

/-- The engine starts Ready at 0x200 and moves between Ready and AwaitingKey exactly as the transition table of 40_step_engine.md R148 says. A
fault changing nothing is the spec's decision D3 (notes/assumptions/5.md); the details of key events, FX0A's pc + 2 and the waiting step
are D17, D27 and D30 (notes/assumptions/15.md). -/
def Obligations.EngineStateTransitions : Prop :=
  (State.reset.wait = .ready ∧ State.reset.pc = 0x200 ∧
    ∀ (cfg : Config) (image : List Byte) (s : State), construct cfg image = .next s → s.wait = .ready ∧ s.pc = 0x200) ∧
  (∀ (s : State) (i : Instr), s.wait = .ready → s.pc.toNat + 2 ≤ memSize → decode s.fetchWord = .ok i →
    (∀ x, i = .ldVxK x → ∃ t, step s = .next t ∧ t.wait = .awaitingKey x ∧ t.pc = s.pc + 2) ∧
    (∀ t, (∀ x, i ≠ .ldVxK x) → step s = .next t → t.wait = .ready)) ∧
  (∀ (s : State) (f : Fault), step s = .fault f → (deliver .stepRequest s).1 = s) ∧
  (∀ (s : State) (k : Nat) (pressed : Bool), s.wait = .ready →
    (deliver .timerTick s).1.wait = .ready ∧ (deliver (.keyEvent k pressed) s).1.wait = .ready) ∧
  (∀ (s : State) (r : RegIdx), s.wait = .awaitingKey r →
    (deliver .stepRequest s).1 = s ∧
    (deliver .timerTick s).1.wait = .awaitingKey r ∧ (deliver .timerTick s).1.dt.toNat = s.dt.toNat - 1 ∧
    (deliver .timerTick s).1.st.toNat = s.st.toNat - 1 ∧
    (∀ k : Fin 16, OnlyChanges (· ∈ [.key k]) s (deliver (.keyEvent k.val false) s).1 ∧
      (deliver (.keyEvent k.val false) s).1.key k = false) ∧
    (∀ (k : Nat) (pressed : Bool), 15 < k → (deliver (.keyEvent k pressed) s).1 = s) ∧
    (∀ k : Fin 16, (deliver (.keyEvent k.val true) s).1.wait = .ready ∧
      OnlyChanges (· ∈ [.key k, .reg r, .wait]) s (deliver (.keyEvent k.val true) s).1 ∧
      ((deliver (.keyEvent k.val true) s).1.reg r).toNat = k.val ∧ (deliver (.keyEvent k.val true) s).1.key k = true))

/-- A batch tick runs steps until the budget, a wait or a fault, then ticks the timers exactly once. The order and the tick after a fault are
the spec's decision D18 (notes/assumptions/16.md); that the faulting step leaves the state unchanged is its decision D3 (60_exceptions.md
R280, notes/assumptions/5.md). -/
def Obligations.BatchTickIsStepsThenOneTick : Prop :=
  ∀ (s : State) (n : Nat),
    batchTick 0 s = (timerTick s, .next ()) ∧
    (∀ r, s.wait = .awaitingKey r → batchTick n s = (timerTick s, .next ())) ∧
    (∀ f, step s = .fault f → batchTick (n + 1) s = (timerTick s, .fault f)) ∧
    (∀ t, s.wait = .ready → step s = .next t → batchTick (n + 1) s = batchTick n t)

/-! ## Whole-machine rules -/

/-- Every instruction leaves pc as the summary of 10_state.md R35 says: pc + 2, a skip's pc + 2 or + 4, a target, or the popped address plus
2. The skips' conditions are general knowledge (G3, notes/assumptions/9.md); that a fault keeps pc is the spec's decision D3
(notes/assumptions/5.md), and FX0A's pc + 2 and the waiting step are D27 and D30 (notes/assumptions/15.md). -/
def Obligations.ProgramCounterMovesAsListed : Prop :=
  (∀ (i : Instr) (s t : State), exec i s = .next t →
    match i with
    | .seByte x kk => t.pc = if s.reg x = kk then s.pc + 4 else s.pc + 2
    | .sneByte x kk => t.pc = if s.reg x ≠ kk then s.pc + 4 else s.pc + 2
    | .seReg x y => t.pc = if s.reg x = s.reg y then s.pc + 4 else s.pc + 2
    | .sneReg x y => t.pc = if s.reg x ≠ s.reg y then s.pc + 4 else s.pc + 2
    | .skp x => ∃ k : Fin 16, (s.reg x).toNat = k.val ∧ t.pc = if s.key k = true then s.pc + 4 else s.pc + 2
    | .sknp x => ∃ k : Fin 16, (s.reg x).toNat = k.val ∧ t.pc = if s.key k = false then s.pc + 4 else s.pc + 2
    | .jp nnn => t.pc.toNat = nnn.toNat
    | .call nnn => t.pc.toNat = nnn.toNat
    | .jpV0 nnn => t.pc.toNat = nnn.toNat + (s.reg 0).toNat
    | .ret => t.pc = s.slot s.sp + 2
    | _ => t.pc = s.pc + 2) ∧
  (∀ s : State, ((∃ f, step s = .fault f) ∨ ∃ r, s.wait = .awaitingKey r) → (deliver .stepRequest s).1.pc = s.pc)

/-- Each piece of state is changed only by the instructions the spec lists as its writers. I unchanged by FX33, FX55, FX65 and DXYN is the
spec's decision D14 (notes/assumptions/13.md), slot 0 never written is D20 (notes/assumptions/17.md), the parameter field is
notes/assumptions/1.md and the draw counter is the model's own (notes/assumptions/2.md). -/
def Obligations.EachPieceOfStateHasItsWriters : Prop :=
  ∀ (i : Instr) (s t : State), exec i s = .next t →
    ((∀ nnn, i ≠ .ldI nnn) → (∀ x, i ≠ .addI x) → (∀ x, i ≠ .ldF x) → t.index = s.index) ∧
    ((∀ x, i ≠ .ldDtVx x) → t.dt = s.dt) ∧ ((∀ x, i ≠ .ldStVx x) → t.st = s.st) ∧
    ((∀ nnn, i ≠ .call nnn) → i ≠ .ret → t.sp = s.sp) ∧
    ((∀ nnn, i ≠ .call nnn) → ∀ k, t.slot k = s.slot k) ∧ t.slot 0 = s.slot 0 ∧
    ((∀ x, i ≠ .ldB x) → (∀ x, i ≠ .ldMemVx x) → ∀ a, t.byte a = s.byte a) ∧
    (i ≠ .cls → (∀ x y n, i ≠ .drw x y n) → ∀ r c, t.pixel r c = s.pixel r c) ∧
    ((∀ x, i ≠ .ldVxK x) → t.wait = s.wait) ∧ (∀ k, t.key k = s.key k) ∧ t.cfg = s.cfg ∧
    ((∀ x kk, i ≠ .rnd x kk) → t.draws = s.draws)

/-- The keys are written only by the key event and read only by EX9E and EXA1 -/
def Obligations.OnlyTheKeySkipsReadTheKeys : Prop :=
  (∀ (i : Instr) (s : State) (k : Vector Bool 16), (∀ x, i ≠ .skp x) → (∀ x, i ≠ .sknp x) →
    exec i (s.withKeys k) = mapNext (·.withKeys k) (exec i s)) ∧
  (∀ (i : Instr) (s t : State), exec i s = .next t → t.keys = s.keys) ∧
  (∀ (e : HostEvent) (s : State), (∀ k pressed, e ≠ .keyEvent k pressed) → (deliver e s).1.keys = s.keys)

/-- The sound timer is read by nothing: whatever it holds, every instruction does the same -/
def Obligations.NoInstructionReadsTheSoundTimer : Prop :=
  (∀ (i : Instr) (s : State) (b : Byte), (∀ x, i ≠ .ldStVx x) →
    exec i (s.withSound b) = mapNext (·.withSound b) (exec i s)) ∧
  (∀ (s : State) (x : RegIdx) (b : Byte), exec (.ldStVx x) (s.withSound b) = exec (.ldStVx x) s) ∧
  (∀ (s : State) (b : Byte), framebuffer (s.withSound b) = framebuffer s)

/-- While a key is awaited nothing but a valid key press ends the wait, and everything else survives -/
def Obligations.OnlyAKeyPressLeavesTheWait : Prop :=
  ∀ (s : State) (r : RegIdx) (e : HostEvent), s.wait = .awaitingKey r → (∀ k, k ≤ 15 → e ≠ .keyEvent k true) →
    (deliver e s).1.wait = .awaitingKey r ∧
    OnlyChanges (fun p => p = .delay ∨ p = .sound ∨ ∃ k, p = .key k) s (deliver e s).1

/-- Once a step faults, every later step faults the same way, whatever the host does in between. It rests on a fault changing no state, the
spec's decision D3 (notes/assumptions/5.md). -/
def Obligations.AFaultRepeatsForEver : Prop :=
  ∀ (s : State) (f : Fault) (es : List HostEvent), step s = .fault f → step (runEvents es s) = .fault f

/-- Two canonical memories that read alike at every address are the same list -/
def Obligations.CanonicalMemoriesThatReadAlikeAreEqual : Prop :=
  ∀ m m' : Memory, m.wf = true → m'.wf = true → (∀ a, readByte m a = readByte m' a) → m = m'

/-- The reset state meets the invariant -/
def Obligations.ResetMeetsTheInvariant : Prop :=
  State.reset.Inv

/-- Every step from a state that meets the invariant leads to one that meets it -/
def Obligations.EveryStepKeepsTheInvariant : Prop :=
  ∀ s t : State, s.Inv → step s = .next t → t.Inv

/-- Every host event (step request, timer tick, key event, batch tick) keeps the invariant from any state that meets it, every constructed
machine meets it, and so does every state it can reach by any host events. It rests on a fault changing no state, the spec's decision D3,
where an event faults (notes/assumptions/5.md); the even pc is under STRICT_ALIGN, D7 (notes/assumptions/12.md), and the reset values of
the stack and its pointer are D1 (notes/assumptions/3.md). -/
def Obligations.EveryReachableStateMeetsTheInvariant : Prop :=
  (∀ (s : State) (e : HostEvent), s.Inv → (deliver e s).1.Inv) ∧
  (∀ (cfg : Config) (image : List Byte) (s : State), construct cfg image = .next s → s.Inv) ∧
  (∀ (cfg : Config) (image : List Byte) (s : State) (es : List HostEvent), construct cfg image = .next s → (runEvents es s).Inv)
end

