-- ==== Sys2Proof/Laws/Decode.lean ====
section
/-! SUPPORT. The fields of a word put together from fields, and of a word taken apart (30_encoding.md R102, R103). -/

namespace Sys2Proof

@[simp] theorem nibbleOf_bitsOf (x : Fin 16) : nibbleOf (bitsOf x) = x := by
  apply Fin.ext
  simp [nibbleOf, bitsOf]

@[simp] theorem bitsOf_nibbleOf (b : BitVec 4) : bitsOf (nibbleOf b) = b := by
  simp [nibbleOf, bitsOf]

/-! ## The bits of each word layout -/

theorem getLsbD_wordOfBytes (hi lo : Byte) (k : Nat) :
    (wordOfBytes hi lo).getLsbD k = if k < 8 then lo.getLsbD k else hi.getLsbD (k - 8) :=
  BitVec.getLsbD_append

theorem getLsbD_wordA (o : BitVec 4) (nnn : Addr12) (k : Nat) :
    (wordA o nnn).getLsbD k = if k < 12 then nnn.getLsbD k else o.getLsbD (k - 12) :=
  BitVec.getLsbD_append

theorem getLsbD_wordXK (o : BitVec 4) (x : RegIdx) (kk : Byte) (k : Nat) :
    (wordXK o x kk).getLsbD k =
      if k < 8 then kk.getLsbD k else if k - 8 < 4 then (bitsOf x).getLsbD (k - 8) else o.getLsbD (k - 8 - 4) := by
  rw [← BitVec.getLsbD_append]
  exact BitVec.getLsbD_append

theorem getLsbD_wordXs (o : BitVec 4) (x : RegIdx) (kk : Byte) (k : Nat) :
    (wordXs o x kk).getLsbD k =
      if k < 8 then kk.getLsbD k else if k - 8 < 4 then (bitsOf x).getLsbD (k - 8) else o.getLsbD (k - 8 - 4) :=
  getLsbD_wordXK o x kk k

theorem getLsbD_wordXY (o : BitVec 4) (x y : RegIdx) (s : BitVec 4) (k : Nat) :
    (wordXY o x y s).getLsbD k =
      if k < 4 then s.getLsbD k else if k - 4 < 4 then (bitsOf y).getLsbD (k - 4)
      else if k - 4 - 4 < 4 then (bitsOf x).getLsbD (k - 4 - 4) else o.getLsbD (k - 4 - 4 - 4) := by
  rw [← BitVec.getLsbD_append, ← BitVec.getLsbD_append]
  exact BitVec.getLsbD_append

/-! ## Bytes and words -/

@[simp] theorem highByte_wordOfBytes (hi lo : Byte) : highByte (wordOfBytes hi lo) = hi := by
  ext k hk
  simp [highByte, getLsbD_wordOfBytes, hk, BitVec.getLsbD_eq_getElem]

@[simp] theorem lowByte_wordOfBytes (hi lo : Byte) : lowByte (wordOfBytes hi lo) = lo := by
  ext k hk
  simp [lowByte, getLsbD_wordOfBytes, hk, BitVec.getLsbD_eq_getElem]

@[simp] theorem wordOfBytes_highByte_lowByte (w : Word) : wordOfBytes (highByte w) (lowByte w) = w := by
  apply BitVec.eq_of_getLsbD_eq
  intro k hk
  rw [getLsbD_wordOfBytes]
  by_cases h : k < 8
  · simp [lowByte, h]
  · simp [highByte, h, show 8 + (k - 8) = k by omega, show k - 8 < 8 by omega]

/-! ## The fields of each layout -/

@[simp] theorem fieldO_wordA (o : BitVec 4) (nnn : Addr12) : fieldO (wordA o nnn) = o := by
  ext k hk
  simp [fieldO, getLsbD_wordA, BitVec.getLsbD_eq_getElem, hk]

@[simp] theorem fieldNNN_wordA (o : BitVec 4) (nnn : Addr12) : fieldNNN (wordA o nnn) = nnn := by
  ext k hk
  simp [fieldNNN, getLsbD_wordA, BitVec.getLsbD_eq_getElem, hk]

@[simp] theorem fieldO_wordXK (o : BitVec 4) (x : RegIdx) (kk : Byte) : fieldO (wordXK o x kk) = o := by
  ext k hk
  simp [fieldO, getLsbD_wordXK, BitVec.getLsbD_eq_getElem, hk, show ¬ 12 + k < 8 by omega, show ¬ 12 + k - 8 < 4 by omega,
    show 12 + k - 8 - 4 = k by omega]

@[simp] theorem fieldX_wordXK (o : BitVec 4) (x : RegIdx) (kk : Byte) : fieldX (wordXK o x kk) = x := by
  have : (wordXK o x kk).extractLsb' 8 4 = bitsOf x := by
    ext k hk
    simp [getLsbD_wordXK, BitVec.getLsbD_eq_getElem, hk]
  rw [fieldX, this, nibbleOf_bitsOf]

@[simp] theorem fieldKK_wordXK (o : BitVec 4) (x : RegIdx) (kk : Byte) : fieldKK (wordXK o x kk) = kk := by
  ext k hk
  simp [fieldKK, getLsbD_wordXK, BitVec.getLsbD_eq_getElem, hk]

@[simp] theorem fieldO_wordXs (o : BitVec 4) (x : RegIdx) (kk : Byte) : fieldO (wordXs o x kk) = o := fieldO_wordXK o x kk
@[simp] theorem fieldX_wordXs (o : BitVec 4) (x : RegIdx) (kk : Byte) : fieldX (wordXs o x kk) = x := fieldX_wordXK o x kk
@[simp] theorem fieldKK_wordXs (o : BitVec 4) (x : RegIdx) (kk : Byte) : fieldKK (wordXs o x kk) = kk := fieldKK_wordXK o x kk

@[simp] theorem fieldO_wordXY (o : BitVec 4) (x y : RegIdx) (s : BitVec 4) : fieldO (wordXY o x y s) = o := by
  ext k hk
  simp [fieldO, getLsbD_wordXY, BitVec.getLsbD_eq_getElem, hk, show ¬ 12 + k < 4 by omega, show ¬ 12 + k - 4 < 4 by omega,
    show ¬ 12 + k - 4 - 4 < 4 by omega, show 12 + k - 4 - 4 - 4 = k by omega]

@[simp] theorem fieldX_wordXY (o : BitVec 4) (x y : RegIdx) (s : BitVec 4) : fieldX (wordXY o x y s) = x := by
  have : (wordXY o x y s).extractLsb' 8 4 = bitsOf x := by
    ext k hk
    simp [getLsbD_wordXY, BitVec.getLsbD_eq_getElem, hk, show ¬ 8 + k < 4 by omega, show ¬ 8 + k - 4 < 4 by omega,
      show 8 + k - 4 - 4 = k by omega]
  rw [fieldX, this, nibbleOf_bitsOf]

@[simp] theorem fieldY_wordXY (o : BitVec 4) (x y : RegIdx) (s : BitVec 4) : fieldY (wordXY o x y s) = y := by
  have : (wordXY o x y s).extractLsb' 4 4 = bitsOf y := by
    ext k hk
    simp [getLsbD_wordXY, BitVec.getLsbD_eq_getElem, hk]
  rw [fieldY, this, nibbleOf_bitsOf]

@[simp] theorem fieldN_wordXY (o : BitVec 4) (x y : RegIdx) (s : BitVec 4) : fieldN (wordXY o x y s) = s := by
  ext k hk
  simp [fieldN, getLsbD_wordXY, BitVec.getLsbD_eq_getElem, hk]

/-! ## The words as numbers -/

theorem toNat_append_eq {m n : Nat} (a : BitVec m) (b : BitVec n) : (a ++ b).toNat = a.toNat * 2 ^ n + b.toNat := by
  rw [BitVec.toNat_append, Nat.shiftLeft_eq, Nat.mul_comm, Nat.two_pow_add_eq_or_of_lt b.isLt]

@[simp] theorem toNat_bitsOf (x : Fin 16) : (bitsOf x).toNat = x.val := by
  simp [bitsOf]

theorem toNat_wordOfBytes (hi lo : Byte) : (wordOfBytes hi lo).toNat = 256 * hi.toNat + lo.toNat :=
  (toNat_append_eq hi lo).trans (by omega)

theorem toNat_wordA (o : BitVec 4) (nnn : Addr12) : (wordA o nnn).toNat = 4096 * o.toNat + nnn.toNat :=
  (toNat_append_eq o nnn).trans (by omega)

theorem toNat_wordXK (o : BitVec 4) (x : RegIdx) (kk : Byte) : (wordXK o x kk).toNat = 4096 * o.toNat + 256 * x.val + kk.toNat := by
  have h := toNat_append_eq (o ++ bitsOf x) kk
  have h' := toNat_append_eq o (bitsOf x)
  rw [toNat_bitsOf] at h'
  exact h.trans (by omega)

theorem toNat_wordXs (o : BitVec 4) (x : RegIdx) (kk : Byte) : (wordXs o x kk).toNat = 4096 * o.toNat + 256 * x.val + kk.toNat :=
  toNat_wordXK o x kk

theorem toNat_wordXY (o : BitVec 4) (x y : RegIdx) (s : BitVec 4) :
    (wordXY o x y s).toNat = 4096 * o.toNat + 256 * x.val + 16 * y.val + s.toNat := by
  have h := toNat_append_eq (o ++ bitsOf x ++ bitsOf y) s
  have h' := toNat_append_eq (o ++ bitsOf x) (bitsOf y)
  have h'' := toNat_append_eq o (bitsOf x)
  rw [toNat_bitsOf] at h' h''
  exact h.trans (by omega)

/-! ## A word put together again from its own fields -/

theorem wordA_fields (w : Word) : wordA (fieldO w) (fieldNNN w) = w := by
  apply BitVec.eq_of_getLsbD_eq
  intro k hk
  rw [getLsbD_wordA]
  by_cases h : k < 12
  · simp [fieldNNN, h]
  · simp [fieldO, h, show 12 + (k - 12) = k by omega, show k - 12 < 4 by omega]

theorem wordXK_fields (w : Word) : wordXK (fieldO w) (fieldX w) (fieldKK w) = w := by
  apply BitVec.eq_of_getLsbD_eq
  intro k hk
  rw [getLsbD_wordXK]
  by_cases h : k < 8
  · simp [fieldKK, h]
  · by_cases h' : k - 8 < 4
    · simp [fieldX, h, h', show 8 + (k - 8) = k by omega]
    · simp [fieldO, h, h', show 12 + (k - 8 - 4) = k by omega, show k - 8 - 4 < 4 by omega]

theorem wordXs_fields (w : Word) : wordXs (fieldO w) (fieldX w) (fieldKK w) = w := wordXK_fields w

theorem wordXY_fields (w : Word) : wordXY (fieldO w) (fieldX w) (fieldY w) (fieldN w) = w := by
  apply BitVec.eq_of_getLsbD_eq
  intro k hk
  rw [getLsbD_wordXY]
  by_cases h : k < 4
  · simp [fieldN, h]
  · by_cases h' : k - 4 < 4
    · simp [fieldY, h, h', show 4 + (k - 4) = k by omega]
    · by_cases h'' : k - 4 - 4 < 4
      · simp [fieldX, h, h', h'', show 8 + (k - 4 - 4) = k by omega]
      · simp [fieldO, h, h', h'', show 12 + (k - 4 - 4 - 4) = k by omega, show k - 4 - 4 - 4 < 4 by omega]

end Sys2Proof
end

