-- ==== Sys2Proof/Laws/Memory.lean ====
section
/-! SUPPORT. The laws of memory: a read after a write, and that every write keeps the canonical form. -/

namespace Sys2Proof.Machine

/-! ## Reading after writing: no premise on the list is needed -/

theorem readByte_filter_self (m : Memory) (a : Nat) : readByte (m.filter (fun c => c.1 != a)) a = initialByte a := by
  induction m with
  | nil => rfl
  | cons c m ih =>
    obtain ⟨k, b⟩ := c
    by_cases h : k = a
    · simpa [h] using ih
    · simpa [h, readByte] using ih

theorem readByte_filter_of_ne (m : Memory) {a n : Nat} (h : n ≠ a) :
    readByte (m.filter (fun c => c.1 != a)) n = readByte m n := by
  induction m with
  | nil => rfl
  | cons c m ih =>
    obtain ⟨k, b⟩ := c
    by_cases hk : k = a
    · have : k ≠ n := fun e => h (e ▸ hk)
      simpa [hk, readByte, show a ≠ n from fun e => h e.symm] using ih
    · by_cases hn : k = n
      · simp [readByte, hn, h]
      · simpa [hk, readByte, hn] using ih

theorem readByte_insertCell_self (m : Memory) (a : Nat) (b : Byte) : readByte (insertCell a b m) a = b := by
  induction m with
  | nil => simp [insertCell, readByte]
  | cons c m ih =>
    obtain ⟨k, d⟩ := c
    by_cases h : k < a
    · simp [insertCell, h, readByte, ih, show k ≠ a by omega]
    · simp [insertCell, h, readByte]

theorem readByte_insertCell_of_ne (m : Memory) {a n : Nat} (b : Byte) (hn : n ≠ a) :
    readByte (insertCell a b m) n = readByte m n := by
  induction m with
  | nil => simp [insertCell, readByte, hn.symm]
  | cons c m ih =>
    obtain ⟨k, d⟩ := c
    by_cases h : k < a
    · simp [insertCell, h, readByte, ih]
    · simp [insertCell, h, readByte, hn.symm]

/-- A read after a write of one byte. -/
theorem readByte_writeByte (m : Memory) (a n : Nat) (b : Byte) :
    readByte (writeByte m a b) n = if n = a then b else readByte m n := by
  unfold writeByte
  split
  · next hb =>
    by_cases h : n = a
    · subst h; simp [readByte_filter_self, hb]
    · simp [h, readByte_filter_of_ne m h]
  · by_cases h : n = a
    · subst h; simp [readByte_insertCell_self]
    · simp [h, readByte_insertCell_of_ne _ b h, readByte_filter_of_ne m h]

/-- A read after a write of several bytes: outside the range, what was there. -/
theorem readByte_writeBytes_outside (bs : List Byte) (m : Memory) (a n : Nat) (h : n < a ∨ a + bs.length ≤ n) :
    readByte (writeBytes m a bs) n = readByte m n := by
  induction bs generalizing m a with
  | nil => rfl
  | cons b bs ih =>
    simp only [List.length_cons] at h
    rw [writeBytes, ih _ _ (by omega), readByte_writeByte, if_neg (by omega)]

/-- A read after a write of several bytes: inside the range, the byte written. -/
theorem readByte_writeBytes_inside (bs : List Byte) (m : Memory) (a k : Nat) (h : k < bs.length) :
    readByte (writeBytes m a bs) (a + k) = bs[k] := by
  induction bs generalizing m a k with
  | nil => simp at h
  | cons b bs ih =>
    rw [writeBytes]
    cases k with
    | zero => rw [readByte_writeBytes_outside _ _ _ _ (by omega), readByte_writeByte, if_pos (by omega)]; rfl
    | succ k =>
      have := ih (writeByte m a b) (a + 1) k (by simpa using h)
      rwa [show a + 1 + k = a + (k + 1) by omega] at this

/-! ## The canonical form -/

theorem wfFrom_mono {lo lo' : Nat} (h : lo' ≤ lo) (m : Memory) (hm : wfFrom lo m = true) : wfFrom lo' m = true := by
  cases m with
  | nil => rfl
  | cons c m =>
    obtain ⟨k, b⟩ := c
    simp only [wfFrom, Bool.and_eq_true, decide_eq_true_eq] at hm ⊢
    exact ⟨⟨⟨by omega, hm.1.1.2⟩, hm.1.2⟩, hm.2⟩

theorem wfFrom_filter (a lo : Nat) (m : Memory) (hm : wfFrom lo m = true) :
    wfFrom lo (m.filter (fun c => c.1 != a)) = true := by
  induction m generalizing lo with
  | nil => rfl
  | cons c m ih =>
    obtain ⟨k, b⟩ := c
    simp only [wfFrom, Bool.and_eq_true, decide_eq_true_eq] at hm
    by_cases h : k = a
    · simpa [h] using ih lo (wfFrom_mono (by omega) m hm.2)
    · have hk : (k != a) = true := by simpa using h
      simp only [List.filter_cons, hk, if_true, wfFrom, Bool.and_eq_true, decide_eq_true_eq]
      exact ⟨hm.1, ih _ hm.2⟩

theorem wfFrom_insertCell (a lo : Nat) (b : Byte) (m : Memory) (ha : lo ≤ a) (hb : a < memSize) (hne : b ≠ initialByte a)
    (habs : ∀ c ∈ m, c.1 ≠ a) (hm : wfFrom lo m = true) : wfFrom lo (insertCell a b m) = true := by
  induction m generalizing lo with
  | nil => simp [insertCell, wfFrom, ha, hb, hne]
  | cons c m ih =>
    obtain ⟨k, d⟩ := c
    have hk : k ≠ a := habs (k, d) (by simp)
    simp only [wfFrom, Bool.and_eq_true, decide_eq_true_eq] at hm
    by_cases h : k < a
    · simp only [insertCell, h, if_true, wfFrom, Bool.and_eq_true, decide_eq_true_eq]
      exact ⟨hm.1, ih _ (by omega) (fun c hc => habs c (by simp [hc])) hm.2⟩
    · simp only [insertCell, h, if_false, wfFrom, Bool.and_eq_true, decide_eq_true_eq, bne_iff_ne, ne_eq]
      exact ⟨⟨⟨ha, hb⟩, hne⟩, ⟨⟨by omega, hm.1.1.2⟩, by simpa using hm.1.2⟩, hm.2⟩

/-- A write of one byte of the bank keeps the canonical form. -/
theorem writeByte_wf (m : Memory) (a : Nat) (b : Byte) (ha : a < memSize) (hm : m.wf = true) : (writeByte m a b).wf = true := by
  unfold Memory.wf at hm ⊢
  unfold writeByte
  split
  · exact wfFrom_filter a 0 m hm
  · next hb =>
    refine wfFrom_insertCell a 0 b _ (by omega) ha hb ?_ (wfFrom_filter a 0 m hm)
    intro c hc
    simpa using (List.mem_filter.mp hc).2

/-- A write of several bytes of the bank keeps the canonical form. -/
theorem writeBytes_wf (bs : List Byte) (m : Memory) (a : Nat) (h : a + bs.length ≤ memSize) (hm : m.wf = true) :
    (writeBytes m a bs).wf = true := by
  induction bs generalizing m a with
  | nil => exact hm
  | cons b bs ih =>
    simp only [List.length_cons] at h
    exact ih _ _ (by omega) (writeByte_wf m a b (by omega) hm)

/-- Below its lowest listed address a memory reads as it did after construction. -/
theorem wfFrom_lookup_lt (lo : Nat) (m : Memory) (hm : wfFrom lo m = true) (n : Nat) (hn : n < lo) : readByte m n = initialByte n := by
  induction m generalizing lo with
  | nil => rfl
  | cons c m ih =>
    obtain ⟨k, b⟩ := c
    simp only [wfFrom, Bool.and_eq_true, decide_eq_true_eq] at hm
    rw [readByte, if_neg (by omega), ih (k + 1) hm.2 (by omega)]

end Sys2Proof.Machine
end

