-- ==== Sys2Proof/Laws/Raster.lean ====
section
/-! SUPPORT. What the sprite rasterizer does, said once: each pixel it covers is inverted where the sprite bit is 1, every other pixel is
left alone, and the flag tells whether any 1 bit met a lit pixel (45_display.md R253 to R255, R258). -/

namespace Sys2Proof.Machine

/-! ## Pixels -/

theorem readPixel_writePixel (d : Display) (r r' : Fin 32) (c c' : Fin 64) (b : Bool) :
    readPixel (writePixel d r c b) r' c' = if r' = r ∧ c' = c then b else readPixel d r' c' := by
  unfold readPixel writePixel
  by_cases hr : r' = r
  · subst hr
    by_cases hc : c' = c
    · subst hc; simp
    · have : c.val ≠ c'.val := fun e => hc (Fin.ext e.symm)
      simp [hc, this]
  · have : r.val ≠ r'.val := fun e => hr (Fin.ext e.symm)
    simp [hr, this]

@[simp] theorem readPixel_darkDisplay (r : Fin 32) (c : Fin 64) : readPixel darkDisplay r c = false := by
  simp [readPixel, darkDisplay]

/-- The pixels after one bit. -/
theorem readPixel_drawBit (r r' : Fin 32) (c c' : Fin 64) (bit : Bool) (p : Raster) :
    readPixel (drawBit r c bit p).surface r' c' =
      if r' = r ∧ c' = c then (readPixel p.surface r c ^^ bit) else readPixel p.surface r' c' :=
  readPixel_writePixel ..

/-- The flag after one bit. -/
theorem drawBit_collision (r : Fin 32) (c : Fin 64) (bit : Bool) (p : Raster) :
    (drawBit r c bit p).collision = (p.collision || (readPixel p.surface r c && bit)) := rfl

/-- The eight columns of a sprite row are distinct (45_display.md R258). -/
theorem colOf_injective (x0 : Nat) {i j : Nat} (hi : i < 8) (hj : j < 8) (h : colOf x0 i = colOf x0 j) : i = j := by
  have := congrArg Fin.val h
  simp only [colOf] at this
  omega

/-- The rows of a sprite are distinct (45_display.md R258). -/
theorem rowOf_injective (y0 : Nat) {i j : Nat} (hi : i < 32) (hj : j < 32) (h : rowOf y0 i = rowOf y0 j) : i = j := by
  have := congrArg Fin.val h
  simp only [rowOf] at this
  omega

/-! ## One row -/

/-- The first `k` bits of a sprite row drawn. -/
theorem drawBits_spec (x0 y0 row : Nat) (b : Byte) (p : Raster) (k : Nat) (hk : k ≤ 8) :
    let q := (List.range k).foldl (fun p col => drawBit (rowOf y0 row) (colOf x0 col) (spriteBit b col) p) p
    (∀ col, col < k → readPixel q.surface (rowOf y0 row) (colOf x0 col)
        = (readPixel p.surface (rowOf y0 row) (colOf x0 col) ^^ spriteBit b col)) ∧
    (∀ r c, (∀ col, col < k → ¬ (r = rowOf y0 row ∧ c = colOf x0 col)) → readPixel q.surface r c = readPixel p.surface r c) ∧
    (q.collision = true ↔ p.collision = true ∨
      ∃ col, col < k ∧ readPixel p.surface (rowOf y0 row) (colOf x0 col) = true ∧ spriteBit b col = true) := by
  induction k with
  | zero => simp
  | succ k ih =>
    obtain ⟨ihHit, ihMiss, ihFlag⟩ := ih (by omega)
    have fresh : ∀ col, col < k → ¬ (rowOf y0 row = rowOf y0 row ∧ colOf x0 k = colOf x0 col) := by
      rintro col hcol ⟨-, e⟩
      have := colOf_injective x0 (i := k) (j := col) (by omega) (by omega) e
      omega
    simp only [List.range_succ, List.foldl_append, List.foldl_cons, List.foldl_nil]
    refine ⟨?_, ?_, ?_⟩
    · intro col hcol
      rw [readPixel_drawBit]
      by_cases e : col = k
      · subst e; rw [if_pos ⟨rfl, rfl⟩, ihMiss _ _ fresh]
      · rw [if_neg, ihHit col (by omega)]
        rintro ⟨-, e'⟩
        exact e (colOf_injective x0 (by omega) (by omega) e')
    · intro r c h
      rw [readPixel_drawBit, if_neg (h k (by omega))]
      exact ihMiss r c (fun col hcol => h col (by omega))
    · rw [drawBit_collision, Bool.or_eq_true, Bool.and_eq_true, ihMiss _ _ fresh, ihFlag]
      constructor
      · rintro ((h | ⟨col, hcol, h⟩) | h)
        · exact .inl h
        · exact .inr ⟨col, by omega, h⟩
        · exact .inr ⟨k, by omega, h⟩
      · rintro (h | ⟨col, hcol, h⟩)
        · exact .inl (.inl h)
        · by_cases e : col = k
          · subst e; exact .inr h
          · exact .inl (.inr ⟨col, by omega, h⟩)

/-! ## The whole sprite -/

/-- What drawing a sprite does: the pixels it covers, the pixels it does not, and the flag. -/
theorem drawSprite_spec (m : Memory) (a x0 y0 n : Nat) (d : Display) (hn : n ≤ 32) :
    (∀ row col, row < n → col < 8 → readPixel (drawSprite m a x0 y0 n d).surface (rowOf y0 row) (colOf x0 col)
        = (readPixel d (rowOf y0 row) (colOf x0 col) ^^ spriteBit (readByte m (a + row)) col)) ∧
    (∀ r c, (∀ row col, row < n → col < 8 → ¬ (r = rowOf y0 row ∧ c = colOf x0 col)) →
        readPixel (drawSprite m a x0 y0 n d).surface r c = readPixel d r c) ∧
    ((drawSprite m a x0 y0 n d).collision = true ↔
      ∃ row col, row < n ∧ col < 8 ∧ readPixel d (rowOf y0 row) (colOf x0 col) = true ∧
        spriteBit (readByte m (a + row)) col = true) := by
  unfold drawSprite
  induction n with
  | zero => simp
  | succ n ih =>
    obtain ⟨ihHit, ihMiss, ihFlag⟩ := ih (by omega)
    obtain ⟨hit, miss, flag⟩ := drawBits_spec x0 y0 n (readByte m (a + n))
      ((List.range n).foldl (fun p row => drawRow x0 y0 row (readByte m (a + row)) p) ⟨d, false⟩) 8 (by omega)
    have fresh : ∀ col row col', row < n → col' < 8 → ¬ (rowOf y0 n = rowOf y0 row ∧ colOf x0 col = colOf x0 col') := by
      rintro col row col' hrow - ⟨e, -⟩
      have := rowOf_injective y0 (i := n) (j := row) (by omega) (by omega) e
      omega
    simp only [List.range_succ, List.foldl_append, List.foldl_cons, List.foldl_nil]
    refine ⟨?_, ?_, ?_⟩
    · intro row col hrow hcol
      by_cases e : row = n
      · subst e
        rw [drawRow, hit col hcol, ihMiss _ _ (fresh col)]
      · rw [drawRow, miss, ihHit row col (by omega) hcol]
        rintro col' hcol' ⟨e', -⟩
        exact e (rowOf_injective y0 (by omega) (by omega) e')
    · intro r c h
      rw [drawRow, miss r c (fun col hcol => h n col (by omega) hcol)]
      exact ihMiss r c (fun row col hrow hcol => h row col (by omega) hcol)
    · rw [drawRow, flag, ihFlag]
      constructor
      · rintro (⟨row, col, hrow, h⟩ | ⟨col, hcol, h1, h2⟩)
        · exact ⟨row, col, by omega, h⟩
        · rw [ihMiss _ _ (fresh col)] at h1
          exact ⟨n, col, by omega, hcol, h1, h2⟩
      · rintro ⟨row, col, hrow, hcol, h1, h2⟩
        by_cases e : row = n
        · subst e
          exact .inr ⟨col, hcol, by rw [ihMiss _ _ (fresh col)]; exact h1, h2⟩
        · exact .inl ⟨row, col, by omega, hcol, h1, h2⟩

end Sys2Proof.Machine
end

