-- ==== Sys2Proof/Laws/State.lean ====
section
/-! SUPPORT. One lemma for each field and each update of the state, true by rfl, so that no proof unfolds a record update; then the
read-after-write laws of the register file, the keys and the stack, and how every step leaves the parameters. -/

namespace Sys2Proof.Machine

/-! ## What each update does to each field -/

@[simp] theorem State.setReg_v (s : State) (x : RegIdx) (b : Byte) : (s.setReg x b).v = s.v.set x.val b x.isLt := rfl
@[simp] theorem State.setReg_index (s : State) (x : RegIdx) (b : Byte) : (s.setReg x b).index = s.index := rfl
@[simp] theorem State.setReg_pc (s : State) (x : RegIdx) (b : Byte) : (s.setReg x b).pc = s.pc := rfl
@[simp] theorem State.setReg_dt (s : State) (x : RegIdx) (b : Byte) : (s.setReg x b).dt = s.dt := rfl
@[simp] theorem State.setReg_st (s : State) (x : RegIdx) (b : Byte) : (s.setReg x b).st = s.st := rfl
@[simp] theorem State.setReg_sp (s : State) (x : RegIdx) (b : Byte) : (s.setReg x b).sp = s.sp := rfl
@[simp] theorem State.setReg_stack (s : State) (x : RegIdx) (b : Byte) : (s.setReg x b).stack = s.stack := rfl
@[simp] theorem State.setReg_mem (s : State) (x : RegIdx) (b : Byte) : (s.setReg x b).mem = s.mem := rfl
@[simp] theorem State.setReg_display (s : State) (x : RegIdx) (b : Byte) : (s.setReg x b).display = s.display := rfl
@[simp] theorem State.setReg_keys (s : State) (x : RegIdx) (b : Byte) : (s.setReg x b).keys = s.keys := rfl
@[simp] theorem State.setReg_wait (s : State) (x : RegIdx) (b : Byte) : (s.setReg x b).wait = s.wait := rfl
@[simp] theorem State.setReg_draws (s : State) (x : RegIdx) (b : Byte) : (s.setReg x b).draws = s.draws := rfl
@[simp] theorem State.setReg_cfg (s : State) (x : RegIdx) (b : Byte) : (s.setReg x b).cfg = s.cfg := rfl
@[simp] theorem State.setReg_key (s : State) (x : RegIdx) (b : Byte) (k : Fin 16) : (s.setReg x b).key k = s.key k := rfl
@[simp] theorem State.setReg_byte (s : State) (x : RegIdx) (b : Byte) (n : Nat) : (s.setReg x b).byte n = s.byte n := rfl
@[simp] theorem State.setReg_pixel (s : State) (x : RegIdx) (b : Byte) (r : Fin 32) (c : Fin 64) : (s.setReg x b).pixel r c = s.pixel r c := rfl
@[simp] theorem State.setReg_slot (s : State) (x : RegIdx) (b : Byte) (k : Fin 16) : (s.setReg x b).slot k = s.slot k := rfl

@[simp] theorem State.setIndex_v (s : State) (a : Word) : (s.setIndex a).v = s.v := rfl
@[simp] theorem State.setIndex_index (s : State) (a : Word) : (s.setIndex a).index = a := rfl
@[simp] theorem State.setIndex_pc (s : State) (a : Word) : (s.setIndex a).pc = s.pc := rfl
@[simp] theorem State.setIndex_dt (s : State) (a : Word) : (s.setIndex a).dt = s.dt := rfl
@[simp] theorem State.setIndex_st (s : State) (a : Word) : (s.setIndex a).st = s.st := rfl
@[simp] theorem State.setIndex_sp (s : State) (a : Word) : (s.setIndex a).sp = s.sp := rfl
@[simp] theorem State.setIndex_stack (s : State) (a : Word) : (s.setIndex a).stack = s.stack := rfl
@[simp] theorem State.setIndex_mem (s : State) (a : Word) : (s.setIndex a).mem = s.mem := rfl
@[simp] theorem State.setIndex_display (s : State) (a : Word) : (s.setIndex a).display = s.display := rfl
@[simp] theorem State.setIndex_keys (s : State) (a : Word) : (s.setIndex a).keys = s.keys := rfl
@[simp] theorem State.setIndex_wait (s : State) (a : Word) : (s.setIndex a).wait = s.wait := rfl
@[simp] theorem State.setIndex_draws (s : State) (a : Word) : (s.setIndex a).draws = s.draws := rfl
@[simp] theorem State.setIndex_cfg (s : State) (a : Word) : (s.setIndex a).cfg = s.cfg := rfl
@[simp] theorem State.setIndex_reg (s : State) (a : Word) (r : RegIdx) : (s.setIndex a).reg r = s.reg r := rfl
@[simp] theorem State.setIndex_key (s : State) (a : Word) (k : Fin 16) : (s.setIndex a).key k = s.key k := rfl
@[simp] theorem State.setIndex_byte (s : State) (a : Word) (n : Nat) : (s.setIndex a).byte n = s.byte n := rfl
@[simp] theorem State.setIndex_pixel (s : State) (a : Word) (r : Fin 32) (c : Fin 64) : (s.setIndex a).pixel r c = s.pixel r c := rfl
@[simp] theorem State.setIndex_slot (s : State) (a : Word) (k : Fin 16) : (s.setIndex a).slot k = s.slot k := rfl

@[simp] theorem State.setDt_v (s : State) (b : Byte) : (s.setDt b).v = s.v := rfl
@[simp] theorem State.setDt_index (s : State) (b : Byte) : (s.setDt b).index = s.index := rfl
@[simp] theorem State.setDt_pc (s : State) (b : Byte) : (s.setDt b).pc = s.pc := rfl
@[simp] theorem State.setDt_dt (s : State) (b : Byte) : (s.setDt b).dt = b := rfl
@[simp] theorem State.setDt_st (s : State) (b : Byte) : (s.setDt b).st = s.st := rfl
@[simp] theorem State.setDt_sp (s : State) (b : Byte) : (s.setDt b).sp = s.sp := rfl
@[simp] theorem State.setDt_stack (s : State) (b : Byte) : (s.setDt b).stack = s.stack := rfl
@[simp] theorem State.setDt_mem (s : State) (b : Byte) : (s.setDt b).mem = s.mem := rfl
@[simp] theorem State.setDt_display (s : State) (b : Byte) : (s.setDt b).display = s.display := rfl
@[simp] theorem State.setDt_keys (s : State) (b : Byte) : (s.setDt b).keys = s.keys := rfl
@[simp] theorem State.setDt_wait (s : State) (b : Byte) : (s.setDt b).wait = s.wait := rfl
@[simp] theorem State.setDt_draws (s : State) (b : Byte) : (s.setDt b).draws = s.draws := rfl
@[simp] theorem State.setDt_cfg (s : State) (b : Byte) : (s.setDt b).cfg = s.cfg := rfl
@[simp] theorem State.setDt_reg (s : State) (b : Byte) (r : RegIdx) : (s.setDt b).reg r = s.reg r := rfl
@[simp] theorem State.setDt_key (s : State) (b : Byte) (k : Fin 16) : (s.setDt b).key k = s.key k := rfl
@[simp] theorem State.setDt_byte (s : State) (b : Byte) (n : Nat) : (s.setDt b).byte n = s.byte n := rfl
@[simp] theorem State.setDt_pixel (s : State) (b : Byte) (r : Fin 32) (c : Fin 64) : (s.setDt b).pixel r c = s.pixel r c := rfl
@[simp] theorem State.setDt_slot (s : State) (b : Byte) (k : Fin 16) : (s.setDt b).slot k = s.slot k := rfl

@[simp] theorem State.setSt_v (s : State) (b : Byte) : (s.setSt b).v = s.v := rfl
@[simp] theorem State.setSt_index (s : State) (b : Byte) : (s.setSt b).index = s.index := rfl
@[simp] theorem State.setSt_pc (s : State) (b : Byte) : (s.setSt b).pc = s.pc := rfl
@[simp] theorem State.setSt_dt (s : State) (b : Byte) : (s.setSt b).dt = s.dt := rfl
@[simp] theorem State.setSt_st (s : State) (b : Byte) : (s.setSt b).st = b := rfl
@[simp] theorem State.setSt_sp (s : State) (b : Byte) : (s.setSt b).sp = s.sp := rfl
@[simp] theorem State.setSt_stack (s : State) (b : Byte) : (s.setSt b).stack = s.stack := rfl
@[simp] theorem State.setSt_mem (s : State) (b : Byte) : (s.setSt b).mem = s.mem := rfl
@[simp] theorem State.setSt_display (s : State) (b : Byte) : (s.setSt b).display = s.display := rfl
@[simp] theorem State.setSt_keys (s : State) (b : Byte) : (s.setSt b).keys = s.keys := rfl
@[simp] theorem State.setSt_wait (s : State) (b : Byte) : (s.setSt b).wait = s.wait := rfl
@[simp] theorem State.setSt_draws (s : State) (b : Byte) : (s.setSt b).draws = s.draws := rfl
@[simp] theorem State.setSt_cfg (s : State) (b : Byte) : (s.setSt b).cfg = s.cfg := rfl
@[simp] theorem State.setSt_reg (s : State) (b : Byte) (r : RegIdx) : (s.setSt b).reg r = s.reg r := rfl
@[simp] theorem State.setSt_key (s : State) (b : Byte) (k : Fin 16) : (s.setSt b).key k = s.key k := rfl
@[simp] theorem State.setSt_byte (s : State) (b : Byte) (n : Nat) : (s.setSt b).byte n = s.byte n := rfl
@[simp] theorem State.setSt_pixel (s : State) (b : Byte) (r : Fin 32) (c : Fin 64) : (s.setSt b).pixel r c = s.pixel r c := rfl
@[simp] theorem State.setSt_slot (s : State) (b : Byte) (k : Fin 16) : (s.setSt b).slot k = s.slot k := rfl

@[simp] theorem State.setRegs_v (s : State) (v : Vector Byte 16) : (s.setRegs v).v = v := rfl
@[simp] theorem State.setRegs_index (s : State) (v : Vector Byte 16) : (s.setRegs v).index = s.index := rfl
@[simp] theorem State.setRegs_pc (s : State) (v : Vector Byte 16) : (s.setRegs v).pc = s.pc := rfl
@[simp] theorem State.setRegs_dt (s : State) (v : Vector Byte 16) : (s.setRegs v).dt = s.dt := rfl
@[simp] theorem State.setRegs_st (s : State) (v : Vector Byte 16) : (s.setRegs v).st = s.st := rfl
@[simp] theorem State.setRegs_sp (s : State) (v : Vector Byte 16) : (s.setRegs v).sp = s.sp := rfl
@[simp] theorem State.setRegs_stack (s : State) (v : Vector Byte 16) : (s.setRegs v).stack = s.stack := rfl
@[simp] theorem State.setRegs_mem (s : State) (v : Vector Byte 16) : (s.setRegs v).mem = s.mem := rfl
@[simp] theorem State.setRegs_display (s : State) (v : Vector Byte 16) : (s.setRegs v).display = s.display := rfl
@[simp] theorem State.setRegs_keys (s : State) (v : Vector Byte 16) : (s.setRegs v).keys = s.keys := rfl
@[simp] theorem State.setRegs_wait (s : State) (v : Vector Byte 16) : (s.setRegs v).wait = s.wait := rfl
@[simp] theorem State.setRegs_draws (s : State) (v : Vector Byte 16) : (s.setRegs v).draws = s.draws := rfl
@[simp] theorem State.setRegs_cfg (s : State) (v : Vector Byte 16) : (s.setRegs v).cfg = s.cfg := rfl
@[simp] theorem State.setRegs_key (s : State) (v : Vector Byte 16) (k : Fin 16) : (s.setRegs v).key k = s.key k := rfl
@[simp] theorem State.setRegs_byte (s : State) (v : Vector Byte 16) (n : Nat) : (s.setRegs v).byte n = s.byte n := rfl
@[simp] theorem State.setRegs_pixel (s : State) (v : Vector Byte 16) (r : Fin 32) (c : Fin 64) : (s.setRegs v).pixel r c = s.pixel r c := rfl
@[simp] theorem State.setRegs_slot (s : State) (v : Vector Byte 16) (k : Fin 16) : (s.setRegs v).slot k = s.slot k := rfl

@[simp] theorem State.setMem_v (s : State) (m : Memory) : (s.setMem m).v = s.v := rfl
@[simp] theorem State.setMem_index (s : State) (m : Memory) : (s.setMem m).index = s.index := rfl
@[simp] theorem State.setMem_pc (s : State) (m : Memory) : (s.setMem m).pc = s.pc := rfl
@[simp] theorem State.setMem_dt (s : State) (m : Memory) : (s.setMem m).dt = s.dt := rfl
@[simp] theorem State.setMem_st (s : State) (m : Memory) : (s.setMem m).st = s.st := rfl
@[simp] theorem State.setMem_sp (s : State) (m : Memory) : (s.setMem m).sp = s.sp := rfl
@[simp] theorem State.setMem_stack (s : State) (m : Memory) : (s.setMem m).stack = s.stack := rfl
@[simp] theorem State.setMem_mem (s : State) (m : Memory) : (s.setMem m).mem = m := rfl
@[simp] theorem State.setMem_display (s : State) (m : Memory) : (s.setMem m).display = s.display := rfl
@[simp] theorem State.setMem_keys (s : State) (m : Memory) : (s.setMem m).keys = s.keys := rfl
@[simp] theorem State.setMem_wait (s : State) (m : Memory) : (s.setMem m).wait = s.wait := rfl
@[simp] theorem State.setMem_draws (s : State) (m : Memory) : (s.setMem m).draws = s.draws := rfl
@[simp] theorem State.setMem_cfg (s : State) (m : Memory) : (s.setMem m).cfg = s.cfg := rfl
@[simp] theorem State.setMem_reg (s : State) (m : Memory) (r : RegIdx) : (s.setMem m).reg r = s.reg r := rfl
@[simp] theorem State.setMem_key (s : State) (m : Memory) (k : Fin 16) : (s.setMem m).key k = s.key k := rfl
@[simp] theorem State.setMem_pixel (s : State) (m : Memory) (r : Fin 32) (c : Fin 64) : (s.setMem m).pixel r c = s.pixel r c := rfl
@[simp] theorem State.setMem_slot (s : State) (m : Memory) (k : Fin 16) : (s.setMem m).slot k = s.slot k := rfl

@[simp] theorem State.setDisplay_v (s : State) (d : Display) : (s.setDisplay d).v = s.v := rfl
@[simp] theorem State.setDisplay_index (s : State) (d : Display) : (s.setDisplay d).index = s.index := rfl
@[simp] theorem State.setDisplay_pc (s : State) (d : Display) : (s.setDisplay d).pc = s.pc := rfl
@[simp] theorem State.setDisplay_dt (s : State) (d : Display) : (s.setDisplay d).dt = s.dt := rfl
@[simp] theorem State.setDisplay_st (s : State) (d : Display) : (s.setDisplay d).st = s.st := rfl
@[simp] theorem State.setDisplay_sp (s : State) (d : Display) : (s.setDisplay d).sp = s.sp := rfl
@[simp] theorem State.setDisplay_stack (s : State) (d : Display) : (s.setDisplay d).stack = s.stack := rfl
@[simp] theorem State.setDisplay_mem (s : State) (d : Display) : (s.setDisplay d).mem = s.mem := rfl
@[simp] theorem State.setDisplay_display (s : State) (d : Display) : (s.setDisplay d).display = d := rfl
@[simp] theorem State.setDisplay_keys (s : State) (d : Display) : (s.setDisplay d).keys = s.keys := rfl
@[simp] theorem State.setDisplay_wait (s : State) (d : Display) : (s.setDisplay d).wait = s.wait := rfl
@[simp] theorem State.setDisplay_draws (s : State) (d : Display) : (s.setDisplay d).draws = s.draws := rfl
@[simp] theorem State.setDisplay_cfg (s : State) (d : Display) : (s.setDisplay d).cfg = s.cfg := rfl
@[simp] theorem State.setDisplay_reg (s : State) (d : Display) (r : RegIdx) : (s.setDisplay d).reg r = s.reg r := rfl
@[simp] theorem State.setDisplay_key (s : State) (d : Display) (k : Fin 16) : (s.setDisplay d).key k = s.key k := rfl
@[simp] theorem State.setDisplay_byte (s : State) (d : Display) (n : Nat) : (s.setDisplay d).byte n = s.byte n := rfl
@[simp] theorem State.setDisplay_slot (s : State) (d : Display) (k : Fin 16) : (s.setDisplay d).slot k = s.slot k := rfl

@[simp] theorem State.setKey_v (s : State) (j : Fin 16) (b : Bool) : (s.setKey j b).v = s.v := rfl
@[simp] theorem State.setKey_index (s : State) (j : Fin 16) (b : Bool) : (s.setKey j b).index = s.index := rfl
@[simp] theorem State.setKey_pc (s : State) (j : Fin 16) (b : Bool) : (s.setKey j b).pc = s.pc := rfl
@[simp] theorem State.setKey_dt (s : State) (j : Fin 16) (b : Bool) : (s.setKey j b).dt = s.dt := rfl
@[simp] theorem State.setKey_st (s : State) (j : Fin 16) (b : Bool) : (s.setKey j b).st = s.st := rfl
@[simp] theorem State.setKey_sp (s : State) (j : Fin 16) (b : Bool) : (s.setKey j b).sp = s.sp := rfl
@[simp] theorem State.setKey_stack (s : State) (j : Fin 16) (b : Bool) : (s.setKey j b).stack = s.stack := rfl
@[simp] theorem State.setKey_mem (s : State) (j : Fin 16) (b : Bool) : (s.setKey j b).mem = s.mem := rfl
@[simp] theorem State.setKey_display (s : State) (j : Fin 16) (b : Bool) : (s.setKey j b).display = s.display := rfl
@[simp] theorem State.setKey_keys (s : State) (j : Fin 16) (b : Bool) : (s.setKey j b).keys = s.keys.set j.val b j.isLt := rfl
@[simp] theorem State.setKey_wait (s : State) (j : Fin 16) (b : Bool) : (s.setKey j b).wait = s.wait := rfl
@[simp] theorem State.setKey_draws (s : State) (j : Fin 16) (b : Bool) : (s.setKey j b).draws = s.draws := rfl
@[simp] theorem State.setKey_cfg (s : State) (j : Fin 16) (b : Bool) : (s.setKey j b).cfg = s.cfg := rfl
@[simp] theorem State.setKey_reg (s : State) (j : Fin 16) (b : Bool) (r : RegIdx) : (s.setKey j b).reg r = s.reg r := rfl
@[simp] theorem State.setKey_byte (s : State) (j : Fin 16) (b : Bool) (n : Nat) : (s.setKey j b).byte n = s.byte n := rfl
@[simp] theorem State.setKey_pixel (s : State) (j : Fin 16) (b : Bool) (r : Fin 32) (c : Fin 64) : (s.setKey j b).pixel r c = s.pixel r c := rfl
@[simp] theorem State.setKey_slot (s : State) (j : Fin 16) (b : Bool) (k : Fin 16) : (s.setKey j b).slot k = s.slot k := rfl

@[simp] theorem State.setWait_v (s : State) (w : Wait) : (s.setWait w).v = s.v := rfl
@[simp] theorem State.setWait_index (s : State) (w : Wait) : (s.setWait w).index = s.index := rfl
@[simp] theorem State.setWait_pc (s : State) (w : Wait) : (s.setWait w).pc = s.pc := rfl
@[simp] theorem State.setWait_dt (s : State) (w : Wait) : (s.setWait w).dt = s.dt := rfl
@[simp] theorem State.setWait_st (s : State) (w : Wait) : (s.setWait w).st = s.st := rfl
@[simp] theorem State.setWait_sp (s : State) (w : Wait) : (s.setWait w).sp = s.sp := rfl
@[simp] theorem State.setWait_stack (s : State) (w : Wait) : (s.setWait w).stack = s.stack := rfl
@[simp] theorem State.setWait_mem (s : State) (w : Wait) : (s.setWait w).mem = s.mem := rfl
@[simp] theorem State.setWait_display (s : State) (w : Wait) : (s.setWait w).display = s.display := rfl
@[simp] theorem State.setWait_keys (s : State) (w : Wait) : (s.setWait w).keys = s.keys := rfl
@[simp] theorem State.setWait_wait (s : State) (w : Wait) : (s.setWait w).wait = w := rfl
@[simp] theorem State.setWait_draws (s : State) (w : Wait) : (s.setWait w).draws = s.draws := rfl
@[simp] theorem State.setWait_cfg (s : State) (w : Wait) : (s.setWait w).cfg = s.cfg := rfl
@[simp] theorem State.setWait_reg (s : State) (w : Wait) (r : RegIdx) : (s.setWait w).reg r = s.reg r := rfl
@[simp] theorem State.setWait_key (s : State) (w : Wait) (k : Fin 16) : (s.setWait w).key k = s.key k := rfl
@[simp] theorem State.setWait_byte (s : State) (w : Wait) (n : Nat) : (s.setWait w).byte n = s.byte n := rfl
@[simp] theorem State.setWait_pixel (s : State) (w : Wait) (r : Fin 32) (c : Fin 64) : (s.setWait w).pixel r c = s.pixel r c := rfl
@[simp] theorem State.setWait_slot (s : State) (w : Wait) (k : Fin 16) : (s.setWait w).slot k = s.slot k := rfl

@[simp] theorem State.countDraw_v (s : State) : s.countDraw.v = s.v := rfl
@[simp] theorem State.countDraw_index (s : State) : s.countDraw.index = s.index := rfl
@[simp] theorem State.countDraw_pc (s : State) : s.countDraw.pc = s.pc := rfl
@[simp] theorem State.countDraw_dt (s : State) : s.countDraw.dt = s.dt := rfl
@[simp] theorem State.countDraw_st (s : State) : s.countDraw.st = s.st := rfl
@[simp] theorem State.countDraw_sp (s : State) : s.countDraw.sp = s.sp := rfl
@[simp] theorem State.countDraw_stack (s : State) : s.countDraw.stack = s.stack := rfl
@[simp] theorem State.countDraw_mem (s : State) : s.countDraw.mem = s.mem := rfl
@[simp] theorem State.countDraw_display (s : State) : s.countDraw.display = s.display := rfl
@[simp] theorem State.countDraw_keys (s : State) : s.countDraw.keys = s.keys := rfl
@[simp] theorem State.countDraw_wait (s : State) : s.countDraw.wait = s.wait := rfl
@[simp] theorem State.countDraw_draws (s : State) : s.countDraw.draws = s.draws + 1 := rfl
@[simp] theorem State.countDraw_cfg (s : State) : s.countDraw.cfg = s.cfg := rfl
@[simp] theorem State.countDraw_reg (s : State) (r : RegIdx) : s.countDraw.reg r = s.reg r := rfl
@[simp] theorem State.countDraw_key (s : State) (k : Fin 16) : s.countDraw.key k = s.key k := rfl
@[simp] theorem State.countDraw_byte (s : State) (n : Nat) : s.countDraw.byte n = s.byte n := rfl
@[simp] theorem State.countDraw_pixel (s : State) (r : Fin 32) (c : Fin 64) : s.countDraw.pixel r c = s.pixel r c := rfl
@[simp] theorem State.countDraw_slot (s : State) (k : Fin 16) : s.countDraw.slot k = s.slot k := rfl

@[simp] theorem State.advance_v (s : State) : s.advance.v = s.v := rfl
@[simp] theorem State.advance_index (s : State) : s.advance.index = s.index := rfl
@[simp] theorem State.advance_pc (s : State) : s.advance.pc = s.pc + 2 := rfl
@[simp] theorem State.advance_dt (s : State) : s.advance.dt = s.dt := rfl
@[simp] theorem State.advance_st (s : State) : s.advance.st = s.st := rfl
@[simp] theorem State.advance_sp (s : State) : s.advance.sp = s.sp := rfl
@[simp] theorem State.advance_stack (s : State) : s.advance.stack = s.stack := rfl
@[simp] theorem State.advance_mem (s : State) : s.advance.mem = s.mem := rfl
@[simp] theorem State.advance_display (s : State) : s.advance.display = s.display := rfl
@[simp] theorem State.advance_keys (s : State) : s.advance.keys = s.keys := rfl
@[simp] theorem State.advance_wait (s : State) : s.advance.wait = s.wait := rfl
@[simp] theorem State.advance_draws (s : State) : s.advance.draws = s.draws := rfl
@[simp] theorem State.advance_cfg (s : State) : s.advance.cfg = s.cfg := rfl
@[simp] theorem State.advance_reg (s : State) (r : RegIdx) : s.advance.reg r = s.reg r := rfl
@[simp] theorem State.advance_key (s : State) (k : Fin 16) : s.advance.key k = s.key k := rfl
@[simp] theorem State.advance_byte (s : State) (n : Nat) : s.advance.byte n = s.byte n := rfl
@[simp] theorem State.advance_pixel (s : State) (r : Fin 32) (c : Fin 64) : s.advance.pixel r c = s.pixel r c := rfl
@[simp] theorem State.advance_slot (s : State) (k : Fin 16) : s.advance.slot k = s.slot k := rfl

@[simp] theorem State.skipIf_v (s : State) (q : Bool) : (s.skipIf q).v = s.v := rfl
@[simp] theorem State.skipIf_index (s : State) (q : Bool) : (s.skipIf q).index = s.index := rfl
@[simp] theorem State.skipIf_pc (s : State) (q : Bool) : (s.skipIf q).pc = if q then s.pc + 4 else s.pc + 2 := rfl
@[simp] theorem State.skipIf_dt (s : State) (q : Bool) : (s.skipIf q).dt = s.dt := rfl
@[simp] theorem State.skipIf_st (s : State) (q : Bool) : (s.skipIf q).st = s.st := rfl
@[simp] theorem State.skipIf_sp (s : State) (q : Bool) : (s.skipIf q).sp = s.sp := rfl
@[simp] theorem State.skipIf_stack (s : State) (q : Bool) : (s.skipIf q).stack = s.stack := rfl
@[simp] theorem State.skipIf_mem (s : State) (q : Bool) : (s.skipIf q).mem = s.mem := rfl
@[simp] theorem State.skipIf_display (s : State) (q : Bool) : (s.skipIf q).display = s.display := rfl
@[simp] theorem State.skipIf_keys (s : State) (q : Bool) : (s.skipIf q).keys = s.keys := rfl
@[simp] theorem State.skipIf_wait (s : State) (q : Bool) : (s.skipIf q).wait = s.wait := rfl
@[simp] theorem State.skipIf_draws (s : State) (q : Bool) : (s.skipIf q).draws = s.draws := rfl
@[simp] theorem State.skipIf_cfg (s : State) (q : Bool) : (s.skipIf q).cfg = s.cfg := rfl
@[simp] theorem State.skipIf_reg (s : State) (q : Bool) (r : RegIdx) : (s.skipIf q).reg r = s.reg r := rfl
@[simp] theorem State.skipIf_key (s : State) (q : Bool) (k : Fin 16) : (s.skipIf q).key k = s.key k := rfl
@[simp] theorem State.skipIf_byte (s : State) (q : Bool) (n : Nat) : (s.skipIf q).byte n = s.byte n := rfl
@[simp] theorem State.skipIf_pixel (s : State) (q : Bool) (r : Fin 32) (c : Fin 64) : (s.skipIf q).pixel r c = s.pixel r c := rfl
@[simp] theorem State.skipIf_slot (s : State) (q : Bool) (k : Fin 16) : (s.skipIf q).slot k = s.slot k := rfl

@[simp] theorem State.jumpTo_v (s : State) (t : Nat) : (s.jumpTo t).v = s.v := rfl
@[simp] theorem State.jumpTo_index (s : State) (t : Nat) : (s.jumpTo t).index = s.index := rfl
@[simp] theorem State.jumpTo_pc (s : State) (t : Nat) : (s.jumpTo t).pc = BitVec.ofNat 16 t := rfl
@[simp] theorem State.jumpTo_dt (s : State) (t : Nat) : (s.jumpTo t).dt = s.dt := rfl
@[simp] theorem State.jumpTo_st (s : State) (t : Nat) : (s.jumpTo t).st = s.st := rfl
@[simp] theorem State.jumpTo_sp (s : State) (t : Nat) : (s.jumpTo t).sp = s.sp := rfl
@[simp] theorem State.jumpTo_stack (s : State) (t : Nat) : (s.jumpTo t).stack = s.stack := rfl
@[simp] theorem State.jumpTo_mem (s : State) (t : Nat) : (s.jumpTo t).mem = s.mem := rfl
@[simp] theorem State.jumpTo_display (s : State) (t : Nat) : (s.jumpTo t).display = s.display := rfl
@[simp] theorem State.jumpTo_keys (s : State) (t : Nat) : (s.jumpTo t).keys = s.keys := rfl
@[simp] theorem State.jumpTo_wait (s : State) (t : Nat) : (s.jumpTo t).wait = s.wait := rfl
@[simp] theorem State.jumpTo_draws (s : State) (t : Nat) : (s.jumpTo t).draws = s.draws := rfl
@[simp] theorem State.jumpTo_cfg (s : State) (t : Nat) : (s.jumpTo t).cfg = s.cfg := rfl
@[simp] theorem State.jumpTo_reg (s : State) (t : Nat) (r : RegIdx) : (s.jumpTo t).reg r = s.reg r := rfl
@[simp] theorem State.jumpTo_key (s : State) (t : Nat) (k : Fin 16) : (s.jumpTo t).key k = s.key k := rfl
@[simp] theorem State.jumpTo_byte (s : State) (t : Nat) (n : Nat) : (s.jumpTo t).byte n = s.byte n := rfl
@[simp] theorem State.jumpTo_pixel (s : State) (t : Nat) (r : Fin 32) (c : Fin 64) : (s.jumpTo t).pixel r c = s.pixel r c := rfl
@[simp] theorem State.jumpTo_slot (s : State) (t : Nat) (k : Fin 16) : (s.jumpTo t).slot k = s.slot k := rfl

@[simp] theorem State.resumeAfter_v (s : State) (a : Word) : (s.resumeAfter a).v = s.v := rfl
@[simp] theorem State.resumeAfter_index (s : State) (a : Word) : (s.resumeAfter a).index = s.index := rfl
@[simp] theorem State.resumeAfter_pc (s : State) (a : Word) : (s.resumeAfter a).pc = a + 2 := rfl
@[simp] theorem State.resumeAfter_dt (s : State) (a : Word) : (s.resumeAfter a).dt = s.dt := rfl
@[simp] theorem State.resumeAfter_st (s : State) (a : Word) : (s.resumeAfter a).st = s.st := rfl
@[simp] theorem State.resumeAfter_sp (s : State) (a : Word) : (s.resumeAfter a).sp = s.sp := rfl
@[simp] theorem State.resumeAfter_stack (s : State) (a : Word) : (s.resumeAfter a).stack = s.stack := rfl
@[simp] theorem State.resumeAfter_mem (s : State) (a : Word) : (s.resumeAfter a).mem = s.mem := rfl
@[simp] theorem State.resumeAfter_display (s : State) (a : Word) : (s.resumeAfter a).display = s.display := rfl
@[simp] theorem State.resumeAfter_keys (s : State) (a : Word) : (s.resumeAfter a).keys = s.keys := rfl
@[simp] theorem State.resumeAfter_wait (s : State) (a : Word) : (s.resumeAfter a).wait = s.wait := rfl
@[simp] theorem State.resumeAfter_draws (s : State) (a : Word) : (s.resumeAfter a).draws = s.draws := rfl
@[simp] theorem State.resumeAfter_cfg (s : State) (a : Word) : (s.resumeAfter a).cfg = s.cfg := rfl
@[simp] theorem State.resumeAfter_reg (s : State) (a : Word) (r : RegIdx) : (s.resumeAfter a).reg r = s.reg r := rfl
@[simp] theorem State.resumeAfter_key (s : State) (a : Word) (k : Fin 16) : (s.resumeAfter a).key k = s.key k := rfl
@[simp] theorem State.resumeAfter_byte (s : State) (a : Word) (n : Nat) : (s.resumeAfter a).byte n = s.byte n := rfl
@[simp] theorem State.resumeAfter_pixel (s : State) (a : Word) (r : Fin 32) (c : Fin 64) : (s.resumeAfter a).pixel r c = s.pixel r c := rfl
@[simp] theorem State.resumeAfter_slot (s : State) (a : Word) (k : Fin 16) : (s.resumeAfter a).slot k = s.slot k := rfl

@[simp] theorem State.push_v (s : State) (a : Word) : (s.push a).v = s.v := rfl
@[simp] theorem State.push_index (s : State) (a : Word) : (s.push a).index = s.index := rfl
@[simp] theorem State.push_pc (s : State) (a : Word) : (s.push a).pc = s.pc := rfl
@[simp] theorem State.push_dt (s : State) (a : Word) : (s.push a).dt = s.dt := rfl
@[simp] theorem State.push_st (s : State) (a : Word) : (s.push a).st = s.st := rfl
@[simp] theorem State.push_sp (s : State) (a : Word) : (s.push a).sp = s.sp + 1 := rfl
@[simp] theorem State.push_stack (s : State) (a : Word) : (s.push a).stack = s.stack.set (s.sp + 1).val a (s.sp + 1).isLt := rfl
@[simp] theorem State.push_mem (s : State) (a : Word) : (s.push a).mem = s.mem := rfl
@[simp] theorem State.push_display (s : State) (a : Word) : (s.push a).display = s.display := rfl
@[simp] theorem State.push_keys (s : State) (a : Word) : (s.push a).keys = s.keys := rfl
@[simp] theorem State.push_wait (s : State) (a : Word) : (s.push a).wait = s.wait := rfl
@[simp] theorem State.push_draws (s : State) (a : Word) : (s.push a).draws = s.draws := rfl
@[simp] theorem State.push_cfg (s : State) (a : Word) : (s.push a).cfg = s.cfg := rfl
@[simp] theorem State.push_reg (s : State) (a : Word) (r : RegIdx) : (s.push a).reg r = s.reg r := rfl
@[simp] theorem State.push_key (s : State) (a : Word) (k : Fin 16) : (s.push a).key k = s.key k := rfl
@[simp] theorem State.push_byte (s : State) (a : Word) (n : Nat) : (s.push a).byte n = s.byte n := rfl
@[simp] theorem State.push_pixel (s : State) (a : Word) (r : Fin 32) (c : Fin 64) : (s.push a).pixel r c = s.pixel r c := rfl

@[simp] theorem State.pop_v (s : State) : s.pop.v = s.v := rfl
@[simp] theorem State.pop_index (s : State) : s.pop.index = s.index := rfl
@[simp] theorem State.pop_pc (s : State) : s.pop.pc = s.pc := rfl
@[simp] theorem State.pop_dt (s : State) : s.pop.dt = s.dt := rfl
@[simp] theorem State.pop_st (s : State) : s.pop.st = s.st := rfl
@[simp] theorem State.pop_sp (s : State) : s.pop.sp = s.sp - 1 := rfl
@[simp] theorem State.pop_stack (s : State) : s.pop.stack = s.stack := rfl
@[simp] theorem State.pop_mem (s : State) : s.pop.mem = s.mem := rfl
@[simp] theorem State.pop_display (s : State) : s.pop.display = s.display := rfl
@[simp] theorem State.pop_keys (s : State) : s.pop.keys = s.keys := rfl
@[simp] theorem State.pop_wait (s : State) : s.pop.wait = s.wait := rfl
@[simp] theorem State.pop_draws (s : State) : s.pop.draws = s.draws := rfl
@[simp] theorem State.pop_cfg (s : State) : s.pop.cfg = s.cfg := rfl
@[simp] theorem State.pop_reg (s : State) (r : RegIdx) : s.pop.reg r = s.reg r := rfl
@[simp] theorem State.pop_key (s : State) (k : Fin 16) : s.pop.key k = s.key k := rfl
@[simp] theorem State.pop_byte (s : State) (n : Nat) : s.pop.byte n = s.byte n := rfl
@[simp] theorem State.pop_pixel (s : State) (r : Fin 32) (c : Fin 64) : s.pop.pixel r c = s.pixel r c := rfl
@[simp] theorem State.pop_slot (s : State) (k : Fin 16) : s.pop.slot k = s.slot k := rfl

/-! ## What the composed updates leave alone -/

@[simp] theorem State.resultThenFlag_index (s : State) (x : RegIdx) (r : Byte) (f : Bool) : (s.resultThenFlag x r f).index = s.index := rfl
@[simp] theorem State.resultThenFlag_pc (s : State) (x : RegIdx) (r : Byte) (f : Bool) : (s.resultThenFlag x r f).pc = s.pc := rfl
@[simp] theorem State.resultThenFlag_dt (s : State) (x : RegIdx) (r : Byte) (f : Bool) : (s.resultThenFlag x r f).dt = s.dt := rfl
@[simp] theorem State.resultThenFlag_st (s : State) (x : RegIdx) (r : Byte) (f : Bool) : (s.resultThenFlag x r f).st = s.st := rfl
@[simp] theorem State.resultThenFlag_sp (s : State) (x : RegIdx) (r : Byte) (f : Bool) : (s.resultThenFlag x r f).sp = s.sp := rfl
@[simp] theorem State.resultThenFlag_stack (s : State) (x : RegIdx) (r : Byte) (f : Bool) : (s.resultThenFlag x r f).stack = s.stack := rfl
@[simp] theorem State.resultThenFlag_mem (s : State) (x : RegIdx) (r : Byte) (f : Bool) : (s.resultThenFlag x r f).mem = s.mem := rfl
@[simp] theorem State.resultThenFlag_display (s : State) (x : RegIdx) (r : Byte) (f : Bool) : (s.resultThenFlag x r f).display = s.display := rfl
@[simp] theorem State.resultThenFlag_keys (s : State) (x : RegIdx) (r : Byte) (f : Bool) : (s.resultThenFlag x r f).keys = s.keys := rfl
@[simp] theorem State.resultThenFlag_wait (s : State) (x : RegIdx) (r : Byte) (f : Bool) : (s.resultThenFlag x r f).wait = s.wait := rfl
@[simp] theorem State.resultThenFlag_draws (s : State) (x : RegIdx) (r : Byte) (f : Bool) : (s.resultThenFlag x r f).draws = s.draws := rfl
@[simp] theorem State.resultThenFlag_cfg (s : State) (x : RegIdx) (r : Byte) (f : Bool) : (s.resultThenFlag x r f).cfg = s.cfg := rfl
@[simp] theorem State.resultThenFlag_key (s : State) (x : RegIdx) (r : Byte) (f : Bool) (k : Fin 16) : (s.resultThenFlag x r f).key k = s.key k := rfl
@[simp] theorem State.resultThenFlag_byte (s : State) (x : RegIdx) (r : Byte) (f : Bool) (n : Nat) : (s.resultThenFlag x r f).byte n = s.byte n := rfl
@[simp] theorem State.resultThenFlag_pixel (s : State) (x : RegIdx) (r : Byte) (f : Bool) (p : Fin 32) (c : Fin 64) : (s.resultThenFlag x r f).pixel p c = s.pixel p c := rfl
@[simp] theorem State.resultThenFlag_slot (s : State) (x : RegIdx) (r : Byte) (f : Bool) (k : Fin 16) : (s.resultThenFlag x r f).slot k = s.slot k := rfl

@[simp] theorem State.flagThenResult_index (s : State) (x : RegIdx) (r : Byte) (f : Bool) : (s.flagThenResult x r f).index = s.index := rfl
@[simp] theorem State.flagThenResult_pc (s : State) (x : RegIdx) (r : Byte) (f : Bool) : (s.flagThenResult x r f).pc = s.pc := rfl
@[simp] theorem State.flagThenResult_dt (s : State) (x : RegIdx) (r : Byte) (f : Bool) : (s.flagThenResult x r f).dt = s.dt := rfl
@[simp] theorem State.flagThenResult_st (s : State) (x : RegIdx) (r : Byte) (f : Bool) : (s.flagThenResult x r f).st = s.st := rfl
@[simp] theorem State.flagThenResult_sp (s : State) (x : RegIdx) (r : Byte) (f : Bool) : (s.flagThenResult x r f).sp = s.sp := rfl
@[simp] theorem State.flagThenResult_stack (s : State) (x : RegIdx) (r : Byte) (f : Bool) : (s.flagThenResult x r f).stack = s.stack := rfl
@[simp] theorem State.flagThenResult_mem (s : State) (x : RegIdx) (r : Byte) (f : Bool) : (s.flagThenResult x r f).mem = s.mem := rfl
@[simp] theorem State.flagThenResult_display (s : State) (x : RegIdx) (r : Byte) (f : Bool) : (s.flagThenResult x r f).display = s.display := rfl
@[simp] theorem State.flagThenResult_keys (s : State) (x : RegIdx) (r : Byte) (f : Bool) : (s.flagThenResult x r f).keys = s.keys := rfl
@[simp] theorem State.flagThenResult_wait (s : State) (x : RegIdx) (r : Byte) (f : Bool) : (s.flagThenResult x r f).wait = s.wait := rfl
@[simp] theorem State.flagThenResult_draws (s : State) (x : RegIdx) (r : Byte) (f : Bool) : (s.flagThenResult x r f).draws = s.draws := rfl
@[simp] theorem State.flagThenResult_cfg (s : State) (x : RegIdx) (r : Byte) (f : Bool) : (s.flagThenResult x r f).cfg = s.cfg := rfl
@[simp] theorem State.flagThenResult_key (s : State) (x : RegIdx) (r : Byte) (f : Bool) (k : Fin 16) : (s.flagThenResult x r f).key k = s.key k := rfl
@[simp] theorem State.flagThenResult_byte (s : State) (x : RegIdx) (r : Byte) (f : Bool) (n : Nat) : (s.flagThenResult x r f).byte n = s.byte n := rfl
@[simp] theorem State.flagThenResult_pixel (s : State) (x : RegIdx) (r : Byte) (f : Bool) (p : Fin 32) (c : Fin 64) : (s.flagThenResult x r f).pixel p c = s.pixel p c := rfl
@[simp] theorem State.flagThenResult_slot (s : State) (x : RegIdx) (r : Byte) (f : Bool) (k : Fin 16) : (s.flagThenResult x r f).slot k = s.slot k := rfl

/-! ## Read after write -/

@[simp] theorem State.reg_setReg_self (s : State) (x : RegIdx) (b : Byte) : (s.setReg x b).reg x = b := by
  simp [State.reg]

theorem State.reg_setReg_of_ne (s : State) (b : Byte) {x r : RegIdx} (h : r ≠ x) : (s.setReg x b).reg r = s.reg r := by
  have : x.val ≠ r.val := fun e => h (Fin.ext e.symm)
  simp [State.reg, this]

theorem State.reg_setReg (s : State) (x r : RegIdx) (b : Byte) : (s.setReg x b).reg r = if r = x then b else s.reg r := by
  by_cases h : r = x
  · subst h; simp
  · simp [h, State.reg_setReg_of_ne]

@[simp] theorem State.reg_setRegs (s : State) (v : Vector Byte 16) (r : RegIdx) : (s.setRegs v).reg r = v[r.val] := rfl

@[simp] theorem State.byte_setMem (s : State) (m : Memory) (a : Nat) : (s.setMem m).byte a = readByte m a := rfl

@[simp] theorem State.pixel_setDisplay (s : State) (d : Display) (r : Fin 32) (c : Fin 64) :
    (s.setDisplay d).pixel r c = readPixel d r c := rfl

@[simp] theorem State.key_setKey_self (s : State) (k : Fin 16) (b : Bool) : (s.setKey k b).key k = b := by
  simp [State.key]

theorem State.key_setKey_of_ne (s : State) (b : Bool) {k j : Fin 16} (h : j ≠ k) : (s.setKey k b).key j = s.key j := by
  have : k.val ≠ j.val := fun e => h (Fin.ext e.symm)
  simp [State.key, this]

theorem State.key_setKey (s : State) (k j : Fin 16) (b : Bool) : (s.setKey k b).key j = if j = k then b else s.key j := by
  by_cases h : j = k
  · subst h; simp
  · simp [h, State.key_setKey_of_ne]

theorem State.slot_push (s : State) (a : Word) (k : Fin 16) : (s.push a).slot k = if k = s.sp + 1 then a else s.slot k := by
  by_cases h : k = s.sp + 1
  · subst h; simp [State.slot]
  · have : (s.sp + 1).val ≠ k.val := fun e => h (Fin.ext e.symm)
    simp only [State.slot, State.push_stack, Vector.getElem_set, this, h, if_false]

theorem State.slot_pop (s : State) (k : Fin 16) : s.pop.slot k = s.slot k := rfl

theorem State.top_eq_slot (s : State) : s.top = s.slot s.sp := rfl

/-- VF after the result and then the flag: the flag, whatever X is (42_alu.md R192). -/
theorem State.reg_resultThenFlag (s : State) (x r : RegIdx) (b : Byte) (f : Bool) :
    (s.resultThenFlag x b f).reg r = if r = vf then flagByte f else if r = x then b else s.reg r := by
  simp [State.resultThenFlag, State.reg_setReg]

/-- VF after the flag and then the result: the result when X is VF (42_alu.md R192). -/
theorem State.reg_flagThenResult (s : State) (x r : RegIdx) (b : Byte) (f : Bool) :
    (s.flagThenResult x b f).reg r = if r = x then b else if r = vf then flagByte f else s.reg r := by
  simp [State.flagThenResult, State.reg_setReg]

theorem State.reg_filledRegs (s : State) (x r : RegIdx) (a : Nat) :
    (s.setRegs (s.filledRegs x a)).reg r = if r ≤ x then s.byte (a + r.val) else s.reg r := by
  simp [State.filledRegs]

theorem State.spillBytes_length (s : State) (x : RegIdx) : (s.spillBytes x).length = x.val + 1 := by
  have := x.isLt
  simp only [State.spillBytes, List.length_take, Vector.length_toList]
  omega

theorem State.getElem_spillBytes (s : State) (x : RegIdx) (k : Nat) (hk : k < x.val + 1) :
    (s.spillBytes x)[k]? = some (s.reg ⟨k, by omega⟩) := by
  have := x.isLt
  simp only [State.spillBytes, State.reg]
  rw [List.getElem?_take_of_lt hk, List.getElem?_eq_getElem (by simp; omega)]
  simp

end Sys2Proof.Machine
end

