-- ==== Sys2Proof/Laws/Ops.lean ====
section
/-! SUPPORT. What each shared operation can do, said once: ending a step, the checks, the stack, the store, and the arithmetic. -/

namespace Sys2Proof.Machine

/-! ## Ending a step -/

theorem complete_eq_next {c : Option Fault} {s t : State} : complete c s = .next t ↔ c = none ∧ t = s := by
  cases c <;> simp [complete, eq_comm]

theorem complete_eq_fault {c : Option Fault} {s : State} {f : Fault} : complete c s = .fault f ↔ c = some f := by
  cases c <;> simp [complete]

theorem complete_ne_refused {c : Option Fault} {s : State} {r : Refusal} : complete c s ≠ .refused r := by
  cases c <;> simp [complete]

@[simp] theorem complete_none (s : State) : complete none s = .next s := rfl

@[simp] theorem complete_some (f : Fault) (s : State) : complete (some f) s = .fault f := rfl

/-! ## The checks -/

theorem checkRange_eq_none {ins : Option Instr} {a n : Nat} : checkRange ins a n = none ↔ n = 0 ∨ a + n ≤ memSize := by
  unfold checkRange; split <;> simp_all

theorem checkRange_eq_some {ins : Option Instr} {a n : Nat} {f : Fault} :
    checkRange ins a n = some f ↔ n ≠ 0 ∧ memSize < a + n ∧ f = .outOfBoundsAddress (max a memSize) ins := by
  unfold checkRange; split
  · simp; omega
  · next h => simp only [not_or, Nat.not_le] at h; simp [h.1, h.2, eq_comm]

theorem checkGlyph_eq_none {ins : Instr} {cfg : Config} {a : Nat} :
    checkGlyph ins cfg a = none ↔ (cfg.glyphWrite = .fault → glyphEnd < a) := by
  unfold checkGlyph; split
  · next h => simp [h.1, h.2]
  · next h => simpa using h

theorem checkStore_eq_none {ins : Instr} {cfg : Config} {a n : Nat} (hn : n ≠ 0) :
    checkStore ins cfg a n = none ↔ a + n ≤ memSize ∧ (cfg.glyphWrite = .fault → glyphEnd < a) := by
  simp [checkStore, Option.or_eq_none_iff, checkRange_eq_none, checkGlyph_eq_none, hn]

theorem checkTarget_eq_none {ins : Instr} {cfg : Config} {t : Nat} :
    checkTarget ins cfg t = none ↔ jumpLo ≤ t ∧ t ≤ jumpHi ∧ (cfg.strictAlign = true → t % 2 = 0) := by
  unfold checkTarget; split
  · simp; omega
  · split
    · next h => simp [h.1, h.2]
    · next h1 h2 =>
      simp only [true_iff]
      refine ⟨by omega, by omega, fun h => ?_⟩
      have := mt (fun e => And.intro h e) h2
      omega

theorem checkPush_eq_none {ins : Instr} {sp : Fin 16} : checkPush ins sp = none ↔ sp ≠ 15 := by
  unfold checkPush; split <;> simp_all

theorem checkPop_eq_none {ins : Instr} {sp : Fin 16} : checkPop ins sp = none ↔ sp ≠ 0 := by
  unfold checkPop; split <;> simp_all

theorem checkDigit_eq_none {ins : Instr} {d : Byte} : checkDigit ins d = none ↔ d.toNat ≤ 0xF := by
  unfold checkDigit; split <;> simp_all

theorem checkKey_eq_none {ins : Option Instr} {k : Nat} : checkKey ins k = none ↔ k ≤ 15 := by
  unfold checkKey; split <;> simp_all

theorem checkOrigin_eq_none {ins : Instr} {x y : Byte} : checkOrigin ins x y = none ↔ x.toNat < dispW ∧ y.toNat < dispH := by
  unfold checkOrigin; split
  · simp; omega
  · simp; omega

theorem checkFetch_eq_none {s : State} : checkFetch s = none ↔ s.pc.toNat + 2 ≤ memSize := by
  simp [checkFetch, checkRange_eq_none]

/-! ## The stack pointer -/

theorem sp_add_one {k : Fin 16} (h : k ≠ 15) : (k + 1).val = k.val + 1 := by
  have : k.val ≠ 15 := fun e => h (Fin.ext e)
  rw [Fin.val_add]
  change (k.val + 1) % 16 = _
  omega

theorem sp_sub_one {k : Fin 16} (h : k ≠ 0) : (k - 1).val = k.val - 1 := by
  have : k.val ≠ 0 := fun e => h (Fin.ext e)
  rw [Fin.sub_def]
  change (16 - 1 + k.val) % 16 = _
  omega

/-! ## The bytes a store writes -/

@[simp] theorem decimalDigits_length (b : Byte) : (decimalDigits b).length = 3 := rfl

/-! ## Arithmetic: the integer result, narrowed, is the bit vector's own -/

theorem addBytes_eq (a b : Byte) : addBytes a b = a + b := by
  apply BitVec.eq_of_toNat_eq
  simp [addBytes, BitVec.toNat_add]

theorem subBytes_eq (a b : Byte) : subBytes a b = a - b := by
  apply BitVec.eq_of_toNat_eq
  have := b.isLt
  simp only [subBytes, BitVec.toNat_ofNat, BitVec.toNat_sub]
  omega

theorem toNat_addBytes (a b : Byte) : (addBytes a b).toNat = (a.toNat + b.toNat) % 256 := by
  simp [addBytes]

theorem toNat_subBytes (a b : Byte) : (subBytes a b).toNat = if b.toNat ≤ a.toNat then a.toNat - b.toNat else a.toNat + 256 - b.toNat := by
  have := a.isLt
  have := b.isLt
  simp only [subBytes, BitVec.toNat_ofNat]
  split <;> omega

/-! ## Fetching where a word has been placed -/

/-- The word just stored at `a` and `a + 1` is the word read from there. -/
theorem wordOfBytes_writeBytes (m : Memory) (a : Nat) (w : Word) :
    wordOfBytes (readByte (writeBytes m a [highByte w, lowByte w]) a) (readByte (writeBytes m a [highByte w, lowByte w]) (a + 1)) = w := by
  have h0 := readByte_writeBytes_inside [highByte w, lowByte w] m a 0 (by simp)
  have h1 := readByte_writeBytes_inside [highByte w, lowByte w] m a 1 (by simp)
  simp only [Nat.add_zero] at h0
  rw [h0, h1]
  exact wordOfBytes_highByte_lowByte w

end Sys2Proof.Machine
end

