-- ==== Sys2Proof/Laws/Step.lean ====
section
/-! SUPPORT. What a step and a host event can do, said once: the cases of a step that goes on, of one that faults, and the state after each
host event. -/

namespace Sys2Proof.Machine

/-! ## The step -/

theorem step_of_ready {s : State} (h : s.wait = .ready) : step s = runInstruction s := by
  simp [step, stepEngine, h]

/-- A step that goes on either waits, or executes the instruction decoded at `pc`. -/
theorem step_cases_next {s t : State} (h : step s = .next t) :
    (t = s ∧ ∃ r, s.wait = .awaitingKey r) ∨
    (s.wait = .ready ∧ s.pc.toNat + 2 ≤ memSize ∧ ∃ i, decode s.fetchWord = .ok i ∧ exec i s = .next t) := by
  cases hw : s.wait with
  | awaitingKey r =>
    simp only [step, stepEngine, hw, Host.Outcome.next.injEq] at h
    exact .inl ⟨h.symm, r, rfl⟩
  | ready =>
    rw [step_of_ready hw, runInstruction] at h
    split at h
    · cases h
    · next hc =>
      rw [decodeAndExecute] at h
      split at h
      · next i hi => exact .inr ⟨rfl, checkFetch_eq_none.1 hc, i, hi, h⟩
      · cases h

/-- A step that faults is of a `Ready` engine: the fetch, the decode or the instruction raised the fault. -/
theorem step_cases_fault {s : State} {f : Fault} (h : step s = .fault f) :
    s.wait = .ready ∧ (checkFetch s = some f ∨
      (s.pc.toNat + 2 ≤ memSize ∧ ((∃ e, decode s.fetchWord = .error e ∧ f = .decodeFailure s.fetchWord none) ∨
        ∃ i, decode s.fetchWord = .ok i ∧ exec i s = .fault f))) := by
  cases hw : s.wait with
  | awaitingKey r => simp [step, stepEngine, hw] at h
  | ready =>
    rw [step_of_ready hw, runInstruction] at h
    refine ⟨rfl, ?_⟩
    split at h
    · next hc => cases h; exact .inl hc
    · next hc =>
      refine .inr ⟨checkFetch_eq_none.1 hc, ?_⟩
      rw [decodeAndExecute] at h
      split at h
      · next i hi => exact .inr ⟨i, hi, h⟩
      · next e he => cases h; exact .inl ⟨e, he, rfl⟩

/-! ## Outcomes -/

theorem mapNext_complete (f : State → State) (c : Option Fault) (s : State) : mapNext f (complete c s) = complete c (f s) := by
  cases c <;> rfl

@[simp] theorem mapNext_next (f : State → State) (s : State) : mapNext f (.next s) = .next (f s) := rfl

@[simp] theorem hostView_next (s t : State) : hostView (.next t) s = (t, .next ()) := rfl

@[simp] theorem hostView_fault (s : State) (f : Fault) : hostView (.fault f) s = (s, .fault f) := rfl

/-! ## Key events -/

theorem resolveWait_ready {s : State} (h : s.wait = .ready) (k : Nat) : resolveWait k s = s := by
  simp [resolveWait, h]

theorem resolveWait_awaiting {s : State} {r : RegIdx} (h : s.wait = .awaitingKey r) (k : Nat) :
    resolveWait k s = (s.setReg r (BitVec.ofNat 8 k)).setWait .ready := by
  simp [resolveWait, h]

theorem keyEvent_of_le {k : Nat} (h : k ≤ 15) (pressed : Bool) (s : State) :
    keyEvent k pressed s =
      .next (if pressed then resolveWait k (s.setKey (Fin.ofNat 16 k) true) else s.setKey (Fin.ofNat 16 k) false) := by
  rw [keyEvent, checkKey_eq_none.2 h, complete_none]

theorem finOfNat_val (k : Fin 16) : Fin.ofNat 16 k.val = k := Fin.ext (Nat.mod_eq_of_lt k.isLt)

/-! ## Timers -/

theorem toNat_countDown (b : Byte) : (countDown b).toNat = b.toNat - 1 := by
  have := b.isLt
  unfold countDown
  split
  · next h => rw [h]; rfl
  · rw [BitVec.toNat_ofNat]; omega

end Sys2Proof.Machine
end

