-- ==== Sys2Proof/Tests/Slice0.lean ====
section
/-! SUPPORT. The model's own tests. Every expected value is from spec/95_test_vectors.md (the vector is named on each test) or from the
encoding of 30_encoding.md R108; the witnesses at the end meet the hypotheses of the statements. -/

namespace Sys2Proof.Tests

open Sys2Proof Sys2Proof.Machine

/-! ## Helpers -/

/-- The machine after reset, set up, with one instruction word at `pc` (the conventions of spec/95_test_vectors.md). -/
def before (setup : State → State) (w : Nat) : State := (setup State.reset).withFetchWord 16 w

/-- The state after one step of it, where there is one. -/
def after (setup : State → State) (w : Nat) : Option State := nextState? (step (before setup w))

/-- The fault of one step of it, where there is one. -/
def faultAfter (setup : State → State) (w : Nat) : Option Fault := faultOf? (step (before setup w))

/-- Setting up an open parameter. -/
def withShift (c : ShiftSrc) (s : State) : State := { s with cfg := { s.cfg with shiftSrc := c } }
/-- Setting up an open parameter. -/
def withAlign (c : Bool) (s : State) : State := { s with cfg := { s.cfg with strictAlign := c } }
/-- Setting up an open parameter. -/
def withSys (c : SysPolicy) (s : State) : State := { s with cfg := { s.cfg with sysPolicy := c } }
/-- Setting up an open parameter. -/
def withGlyph (c : GlyphWrite) (s : State) : State := { s with cfg := { s.cfg with glyphWrite := c } }
/-- Setting up the stack pointer. -/
def withSp (k : Fin 16) (s : State) : State := { s with sp := k }
/-- Setting up the program counter. -/
def withPc (a : Word) (s : State) : State := { s with pc := a }
/-- Setting up bytes of memory. -/
def withBytes (a : Nat) (bs : List Byte) (s : State) : State := s.setMem (writeBytes s.mem a bs)
/-- Setting up one lit pixel. -/
def withLit (r : Fin 32) (c : Fin 64) (s : State) : State := s.setDisplay (writePixel s.display r c true)
/-- The lit pixels of the given rows, in columns 0 to 8 and 63. -/
def litPixels (rows : List (Fin 32)) (s : State) : List (Nat × Nat) :=
  rows.flatMap (fun r => ([0, 1, 2, 3, 4, 5, 6, 7, 8, 63] : List (Fin 64)).filterMap (fun c => if s.pixel r c then some (r.val, c.val) else none))

/-! ## Well-formedness: the one check of WellFormed.lean refuses what is no instruction (30_encoding.md R108 row 1) -/

theorem test_sys_0E0_is_ill_formed : (Instr.sys 0x0E0).wellFormed = false := by decide
theorem test_sys_0EE_is_ill_formed : (Instr.sys 0x0EE).wellFormed = false := by decide
theorem test_sys_123_is_well_formed : (Instr.sys 0x123).wellFormed = true := by decide

/-! ## Decoding: the 35 words of vector T1, and illegal words -/

theorem test_decode_sys : decode 0x0123 = .ok (.sys 0x123) ∧ encode (.sys 0x123) = 0x0123 := by decide
theorem test_decode_cls : decode 0x00E0 = .ok (.cls) ∧ encode (.cls) = 0x00E0 := by decide
theorem test_decode_ret : decode 0x00EE = .ok (.ret) ∧ encode (.ret) = 0x00EE := by decide
theorem test_decode_jp : decode 0x1ABC = .ok (.jp 0xABC) ∧ encode (.jp 0xABC) = 0x1ABC := by decide
theorem test_decode_call : decode 0x2ABC = .ok (.call 0xABC) ∧ encode (.call 0xABC) = 0x2ABC := by decide
theorem test_decode_seByte : decode 0x3A2C = .ok (.seByte 0xA 0x2C) ∧ encode (.seByte 0xA 0x2C) = 0x3A2C := by decide
theorem test_decode_sneByte : decode 0x4A2C = .ok (.sneByte 0xA 0x2C) ∧ encode (.sneByte 0xA 0x2C) = 0x4A2C := by decide
theorem test_decode_seReg : decode 0x5AB0 = .ok (.seReg 0xA 0xB) ∧ encode (.seReg 0xA 0xB) = 0x5AB0 := by decide
theorem test_decode_ldByte : decode 0x6A2C = .ok (.ldByte 0xA 0x2C) ∧ encode (.ldByte 0xA 0x2C) = 0x6A2C := by decide
theorem test_decode_addByte : decode 0x7A2C = .ok (.addByte 0xA 0x2C) ∧ encode (.addByte 0xA 0x2C) = 0x7A2C := by decide
theorem test_decode_ldReg : decode 0x8AB0 = .ok (.ldReg 0xA 0xB) ∧ encode (.ldReg 0xA 0xB) = 0x8AB0 := by decide
theorem test_decode_orReg : decode 0x8AB1 = .ok (.orReg 0xA 0xB) ∧ encode (.orReg 0xA 0xB) = 0x8AB1 := by decide
theorem test_decode_andReg : decode 0x8AB2 = .ok (.andReg 0xA 0xB) ∧ encode (.andReg 0xA 0xB) = 0x8AB2 := by decide
theorem test_decode_xorReg : decode 0x8AB3 = .ok (.xorReg 0xA 0xB) ∧ encode (.xorReg 0xA 0xB) = 0x8AB3 := by decide
theorem test_decode_addReg : decode 0x8AB4 = .ok (.addReg 0xA 0xB) ∧ encode (.addReg 0xA 0xB) = 0x8AB4 := by decide
theorem test_decode_subReg : decode 0x8AB5 = .ok (.subReg 0xA 0xB) ∧ encode (.subReg 0xA 0xB) = 0x8AB5 := by decide
theorem test_decode_shr : decode 0x8AB6 = .ok (.shr 0xA 0xB) ∧ encode (.shr 0xA 0xB) = 0x8AB6 := by decide
theorem test_decode_subn : decode 0x8AB7 = .ok (.subn 0xA 0xB) ∧ encode (.subn 0xA 0xB) = 0x8AB7 := by decide
theorem test_decode_shl : decode 0x8ABE = .ok (.shl 0xA 0xB) ∧ encode (.shl 0xA 0xB) = 0x8ABE := by decide
theorem test_decode_sneReg : decode 0x9AB0 = .ok (.sneReg 0xA 0xB) ∧ encode (.sneReg 0xA 0xB) = 0x9AB0 := by decide
theorem test_decode_ldI : decode 0xAABC = .ok (.ldI 0xABC) ∧ encode (.ldI 0xABC) = 0xAABC := by decide
theorem test_decode_jpV0 : decode 0xBABC = .ok (.jpV0 0xABC) ∧ encode (.jpV0 0xABC) = 0xBABC := by decide
theorem test_decode_rnd : decode 0xCA2C = .ok (.rnd 0xA 0x2C) ∧ encode (.rnd 0xA 0x2C) = 0xCA2C := by decide
theorem test_decode_drw : decode 0xDAB5 = .ok (.drw 0xA 0xB 5) ∧ encode (.drw 0xA 0xB 5) = 0xDAB5 := by decide
theorem test_decode_skp : decode 0xEA9E = .ok (.skp 0xA) ∧ encode (.skp 0xA) = 0xEA9E := by decide
theorem test_decode_sknp : decode 0xEAA1 = .ok (.sknp 0xA) ∧ encode (.sknp 0xA) = 0xEAA1 := by decide
theorem test_decode_ldVxDt : decode 0xFA07 = .ok (.ldVxDt 0xA) ∧ encode (.ldVxDt 0xA) = 0xFA07 := by decide
theorem test_decode_ldVxK : decode 0xFA0A = .ok (.ldVxK 0xA) ∧ encode (.ldVxK 0xA) = 0xFA0A := by decide
theorem test_decode_ldDtVx : decode 0xFA15 = .ok (.ldDtVx 0xA) ∧ encode (.ldDtVx 0xA) = 0xFA15 := by decide
theorem test_decode_ldStVx : decode 0xFA18 = .ok (.ldStVx 0xA) ∧ encode (.ldStVx 0xA) = 0xFA18 := by decide
theorem test_decode_addI : decode 0xFA1E = .ok (.addI 0xA) ∧ encode (.addI 0xA) = 0xFA1E := by decide
theorem test_decode_ldF : decode 0xFA29 = .ok (.ldF 0xA) ∧ encode (.ldF 0xA) = 0xFA29 := by decide
theorem test_decode_ldB : decode 0xFA33 = .ok (.ldB 0xA) ∧ encode (.ldB 0xA) = 0xFA33 := by decide
theorem test_decode_ldMemVx : decode 0xFA55 = .ok (.ldMemVx 0xA) ∧ encode (.ldMemVx 0xA) = 0xFA55 := by decide
theorem test_decode_ldVxMem : decode 0xFA65 = .ok (.ldVxMem 0xA) ∧ encode (.ldVxMem 0xA) = 0xFA65 := by decide
theorem test_illegal_5121 : decode 0x5121 = .error (.decodeFailure 0x5121) := by decide
theorem test_illegal_9121 : decode 0x9121 = .error (.decodeFailure 0x9121) := by decide
theorem test_illegal_8128 : decode 0x8128 = .error (.decodeFailure 0x8128) := by decide
theorem test_illegal_812F : decode 0x812F = .error (.decodeFailure 0x812F) := by decide
theorem test_illegal_E09F : decode 0xE09F = .error (.decodeFailure 0xE09F) := by decide
theorem test_illegal_F000 : decode 0xF000 = .error (.decodeFailure 0xF000) := by decide
theorem test_illegal_FFFF : decode 0xFFFF = .error (.decodeFailure 0xFFFF) := by decide

theorem test_decodeBytes_is_big_endian : decodeBytes [0xA2, 0x00, 0x60] = .ok (.ldI 0x200, [0x60]) := by decide
theorem test_decodeBytes_needs_two_bytes : decodeBytes [0xA2] = .error (.truncated [0xA2]) := by decide
theorem test_decodeTableWord : decodeTableWord 16 0xD125 = some (.drw 1 2 5) := by decide

/-! ## One step of each instruction -/

/-- T1, SYS under `fault` -/
theorem test_sys_faults :
    faultAfter (fun s => s) 0x0200 = some (.decodeFailure 0x0200 (some (.sys 0x200))) := by decide

/-- T1, SYS under `nop` -/
theorem test_sys_nop :
    (after (fun s => withSys .nop (s)) 0x0200).map (fun t => (t.pc)) = some (0x202) := by decide

/-- T7.1 -/
theorem test_cls :
    (after (fun s => (withLit 31 63 (withLit 0 0 (s))).setReg vf 1) 0x00E0).map (fun t => (litPixels [0, 31] t, t.reg vf, t.pc)) = some ([], 1, 0x202) := by decide

/-- T5.22 -/
theorem test_ret :
    (after (fun s => (withSp 0 s).push 0x0204) 0x00EE).map (fun t => (t.sp, t.pc, t.slot 1)) = some (0, 0x206, 0x0204) := by decide

/-- T5.23 -/
theorem test_ret_underflow :
    faultAfter (fun s => s) 0x00EE = some (.stackUnderflow (some .ret)) := by decide

/-- T5.3 -/
theorem test_jp_top_of_range :
    (after (fun s => s) 0x1FFE).map (fun t => (t.pc)) = some (0xFFE) := by decide

/-- T5.4 -/
theorem test_jp_range_before_alignment :
    faultAfter (fun s => s) 0x1FFF = some (.outOfBoundsAddress 0xFFF (some (.jp 0xFFF))) := by decide

/-- T5.15 -/
theorem test_call :
    (after (fun s => s) 0x2208).map (fun t => (t.sp, t.slot 1, t.pc)) = some (1, 0x0200, 0x208) := by decide

/-- T5.18 -/
theorem test_call_overflow_before_target :
    faultAfter (fun s => withSp 15 (s)) 0x2FFF = some (.stackOverflow (some (.call 0xFFF))) := by decide

/-- T5.25 -/
theorem test_seByte_skips :
    (after (fun s => (s).setReg 0xA 0x2C) 0x3A2C).map (fun t => (t.pc)) = some (0x204) := by decide

/-- T5.26 -/
theorem test_seByte_falls_through :
    (after (fun s => (s).setReg 0xA 0x2D) 0x3A2C).map (fun t => (t.pc)) = some (0x202) := by decide

/-- T5.27 -/
theorem test_sneByte_falls_through :
    (after (fun s => (s).setReg 0xA 0x2C) 0x4A2C).map (fun t => (t.pc)) = some (0x202) := by decide

/-- T5.28 -/
theorem test_sneByte_skips :
    (after (fun s => (s).setReg 0xA 0x2D) 0x4A2C).map (fun t => (t.pc)) = some (0x204) := by decide

/-- T5.29 -/
theorem test_seReg_falls_through :
    (after (fun s => ((s).setReg 1 1).setReg 2 2) 0x5120).map (fun t => (t.pc)) = some (0x202) := by decide

/-- T5.30 -/
theorem test_seReg_skips :
    (after (fun s => (s).setReg 0xA 3) 0x5AA0).map (fun t => (t.pc)) = some (0x204) := by decide

/-- S1 -/
theorem test_ldByte :
    (after (fun s => s) 0x6FAB).map (fun t => (t.reg vf, t.reg 0xE, t.pc)) = some (0xAB, 0, 0x202) := by decide

/-- T4.3 -/
theorem test_addByte_wraps :
    (after (fun s => ((s).setReg 1 0xFA).setReg vf 7) 0x710A).map (fun t => (t.reg 1, t.reg vf)) = some (4, 7) := by decide

/-- S1 -/
theorem test_ldReg :
    (after (fun s => (s).setReg 0xF 0xAB) 0x8EF0).map (fun t => (t.reg 0xE, t.reg 0xF)) = some (0xAB, 0xAB) := by decide

/-- T4.4 -/
theorem test_orReg_keeps_vf :
    (after (fun s => (((s).setReg 1 0x0C).setReg 2 0x0A).setReg vf 1) 0x8121).map (fun t => (t.reg 1, t.reg vf)) = some (0x0E, 1) := by decide

/-- T4.5 -/
theorem test_andReg_keeps_vf :
    (after (fun s => (((s).setReg 1 0x0C).setReg 2 0x0A).setReg vf 1) 0x8122).map (fun t => (t.reg 1, t.reg vf)) = some (0x08, 1) := by decide

/-- T4.6 -/
theorem test_xorReg_keeps_vf :
    (after (fun s => (((s).setReg 1 0x0C).setReg 2 0x0A).setReg vf 1) 0x8123).map (fun t => (t.reg 1, t.reg vf)) = some (0x06, 1) := by decide

/-- S4 -/
theorem test_addReg_carries :
    (after (fun s => ((s).setReg 0 0xFA).setReg 1 0x0A) 0x8014).map (fun t => (t.reg 0, t.reg 1, t.reg vf)) = some (4, 0x0A, 1) := by decide

/-- T4.22 -/
theorem test_addReg_vf_destination :
    (after (fun s => ((s).setReg vf 0xF0).setReg 1 0x20) 0x8F14).map (fun t => (t.reg vf)) = some (1) := by decide

/-- S5 -/
theorem test_subReg_borrows :
    (after (fun s => (((s).setReg 0 3).setReg 1 0x0A).setReg vf 1) 0x8015).map (fun t => (t.reg 0, t.reg vf)) = some (0xF9, 0) := by decide

/-- T4.26 -/
theorem test_subReg_vf_destination :
    (after (fun s => ((s).setReg vf 5).setReg 1 6) 0x8F15).map (fun t => (t.reg vf)) = some (0) := by decide

/-- T4.17 under VX -/
theorem test_shr_vx :
    (after (fun s => ((s).setReg 1 0x10).setReg 2 5) 0x8126).map (fun t => (t.reg 1, t.reg 2, t.reg vf)) = some (8, 5, 0) := by decide

/-- T4.17 under VY -/
theorem test_shr_vy :
    (after (fun s => ((withShift .vy (s)).setReg 1 0x10).setReg 2 5) 0x8126).map (fun t => (t.reg 1, t.reg 2, t.reg vf)) = some (2, 5, 1) := by decide

/-- T4.11 -/
theorem test_subn_no_borrow :
    (after (fun s => ((s).setReg 0 3).setReg 1 0x0A) 0x8017).map (fun t => (t.reg 0, t.reg vf)) = some (7, 1) := by decide

/-- T4.10 -/
theorem test_subn_borrows :
    (after (fun s => ((s).setReg 0 0x0A).setReg 1 3) 0x8017).map (fun t => (t.reg 0, t.reg vf)) = some (0xF9, 0) := by decide

/-- T4.18 under VY -/
theorem test_shl_vy :
    (after (fun s => ((withShift .vy (s)).setReg 1 0x10).setReg 2 0x85) 0x812E).map (fun t => (t.reg 1, t.reg 2, t.reg vf)) = some (0x0A, 0x85, 1) := by decide

/-- T4.29 -/
theorem test_shl_vf_destination :
    (after (fun s => (s).setReg vf 0x81) 0x8F0E).map (fun t => (t.reg vf)) = some (2) := by decide

/-- T5.32 -/
theorem test_sneReg_skips :
    (after (fun s => ((s).setReg 1 7).setReg 2 8) 0x9120).map (fun t => (t.pc)) = some (0x204) := by decide

/-- T5.33 -/
theorem test_sneReg_falls_through :
    (after (fun s => (s).setReg 0xA 3) 0x9AA0).map (fun t => (t.pc)) = some (0x202) := by decide

/-- T3.1 -/
theorem test_ldI_not_checked :
    (after (fun s => (s).setIndex 0x1234) 0xAFFF).map (fun t => (t.index, t.pc)) = some (0x0FFF, 0x202) := by decide

/-- T5.14 -/
theorem test_jpV0 :
    (after (fun s => (s).setReg 0 4) 0xB300).map (fun t => (t.pc)) = some (0x304) := by decide

/-- T5.12 -/
theorem test_jpV0_not_wrapped :
    faultAfter (fun s => (s).setReg 0 0xFF) 0xBFFF = some (.outOfBoundsAddress 0x10FE (some (.jpV0 0xFFF))) := by decide

/-- R194 example and T4.16: the random byte is given here, since the step draws a free value -/
theorem test_rnd_with_B7 :
    ((rndWith 0xB7 3 0x0F State.reset).reg 3, (rndWith 0xB7 0xF 0x0F State.reset).reg vf) = (7, 7) := by decide

/-- T4.15, without the drawn value -/
theorem test_rnd_completes :
    (after (fun s => (s).setReg 3 9) 0xC300).map (fun t => (t.pc, t.draws)) = some (0x202, 1) := by decide

/-- S6 -/
theorem test_drw_glyph_0 :
    (after (fun s => s) 0xD015).map (fun t => (litPixels [0, 1, 2, 3, 4, 5] t, t.reg vf)) = some ([(0, 0), (0, 1), (0, 2), (0, 3), (1, 0), (1, 3), (2, 0), (2, 3), (3, 0), (3, 3), (4, 0), (4, 1), (4, 2), (4, 3)], 0) := by decide

/-- T7.16 -/
theorem test_drw_keeps_early_collision :
    (after (fun s => (withBytes 0x300 [0x80, 0x80] (withLit 0 0 (s))).setIndex 0x300) 0xD012).map (fun t => (litPixels [0, 1, 2] t, t.reg vf)) = some ([(1, 0)], 1) := by decide

/-- S7 -/
theorem test_drw_wraps_columns :
    (after (fun s => ((withBytes 0x300 [0xFF] (s)).setIndex 0x300).setReg 0 63) 0xD011).map (fun t => (litPixels [0, 1] t, t.reg vf)) = some ([(0, 0), (0, 1), (0, 2), (0, 3), (0, 4), (0, 5), (0, 6), (0, 63)], 0) := by decide

/-- T7.12 -/
theorem test_drw_origin_before_memory :
    faultAfter (fun s => ((s).setReg 0 64).setIndex 0x0FFF) 0xD011 = some (.outOfScreenBounds 64 0 (some (.drw 0 1 1))) := by decide

/-- T6.7 -/
theorem test_skp_skips :
    (after (fun s => ((s).setReg 1 0x0F).setKey 15 true) 0xE19E).map (fun t => (t.pc)) = some (0x204) := by decide

/-- T6.11 -/
theorem test_skp_bad_index :
    faultAfter (fun s => (s).setReg 1 0x10) 0xE19E = some (.invalidKeyIndex 0x10 (some (.skp 1))) := by decide

/-- T6.9 -/
theorem test_sknp_skips :
    (after (fun s => s) 0xE1A1).map (fun t => (t.pc)) = some (0x204) := by decide

/-- T6.10 -/
theorem test_sknp_falls_through :
    (after (fun s => ((s).setReg 5 0x0A).setKey 10 true) 0xE5A1).map (fun t => (t.pc)) = some (0x202) := by decide

/-- T6.1 -/
theorem test_ldVxDt :
    (after (fun s => (s).setDt 0x3C) 0xF307).map (fun t => (t.reg 3, t.dt, t.pc)) = some (0x3C, 0x3C, 0x202) := by decide

/-- T6.13 -/
theorem test_ldVxK :
    (after (fun s => s) 0xF20A).map (fun t => (t.wait, t.pc, t.reg 2)) = some (.awaitingKey 2, 0x202, 0) := by decide

/-- T6.2 -/
theorem test_ldDtVx :
    (after (fun s => (s).setReg 2 7) 0xF215).map (fun t => (t.dt, t.st)) = some (7, 0) := by decide

/-- T6.3 -/
theorem test_ldStVx :
    (after (fun s => (s).setReg 2 2) 0xF218).map (fun t => (t.st, t.dt)) = some (2, 0) := by decide

/-- T3.3 -/
theorem test_addI_wraps :
    (after (fun s => (((s).setIndex 0xFFFF).setReg 1 2).setReg vf 7) 0xF11E).map (fun t => (t.index, t.reg vf)) = some (1, 7) := by decide

/-- T3.6 -/
theorem test_ldF :
    (after (fun s => (s).setReg 0 0x0F) 0xF029).map (fun t => (t.index)) = some (0x004B) := by decide

/-- T3.7 -/
theorem test_ldF_not_a_digit :
    faultAfter (fun s => (s).setReg 0 0x10) 0xF029 = some (.noSuchDigitSprite 0x10 (some (.ldF 0))) := by decide

/-- T3.9 -/
theorem test_ldB_top_of_bank :
    (after (fun s => ((s).setIndex 0x0FFC).setReg 3 0x7B) 0xF333).map (fun t => (t.byte 0xFFC, t.byte 0xFFD, t.byte 0xFFE, t.index)) = some (1, 2, 3, 0x0FFC) := by decide

/-- T3.14 -/
theorem test_ldB_enters_glyphs :
    faultAfter (fun s => ((s).setIndex 0x004E).setReg 3 0x7B) 0xF333 = some (.outOfBoundsAddress 0x04E (some (.ldB 3))) := by decide

/-- T3.20 -/
theorem test_ldMemVx_sixteen :
    (after (fun s => (((s).setIndex 0x0FEF).setReg 0 1).setReg vf 0xEE) 0xFF55).map (fun t => (t.byte 0xFEF, t.byte 0xFFD, t.byte 0xFFE, t.index)) = some (1, 0, 0xEE, 0x0FEF) := by decide

/-- T3.19 -/
theorem test_ldMemVx_past_bank :
    faultAfter (fun s => ((s).setIndex 0x0FFE).setReg 0 9) 0xF155 = some (.outOfBoundsAddress 0xFFF (some (.ldMemVx 1))) := by decide

/-- T3.23 -/
theorem test_ldVxMem_glyph :
    (after (fun s => (s).setReg 5 7) 0xF465).map (fun t => (t.reg 0, t.reg 1, t.reg 2, t.reg 3, t.reg 4, t.reg 5)) = some (0xF0, 0x90, 0x90, 0x90, 0xF0, 7) := by decide

/-- T3.26 -/
theorem test_ldVxMem_past_bank :
    faultAfter (fun s => (s).setIndex 0xFFFF) 0xF065 = some (.outOfBoundsAddress 0xFFFF (some (.ldVxMem 0))) := by decide

/-! ## The step, and the host's events -/

/-- T2 -/
theorem test_fetch_at_top_faults :
    faultOf? (step (withPc 0xFFE State.reset)) = some (.outOfBoundsAddress 0xFFF none) := by decide

/-- T2 -/
theorem test_fetch_in_glyphs :
    faultOf? (step (withPc 0 State.reset)) = some (.decodeFailure 0xF090 none) := by decide

/-- T2 -/
theorem test_step_waiting_does_nothing :
    nextState? (step (State.reset.setWait (.awaitingKey 2))) = some (State.reset.setWait (.awaitingKey 2)) := by decide

/-- T2 -/
theorem test_skip_over_illegal_word :
    (nextState? (step (withBytes 0x200 [0x31, 0x00, 0xFF, 0xFF] State.reset))).map (fun t => t.pc) = some 0x204 := by decide

/-- T3.17: the instruction overwrites itself and half of the next word -/
theorem test_self_modification :
    (after (fun s => (s.setIndex 0x200).setReg 3 0x63) 0xF333).map (fun t => (t.fetchWord, faultOf? (step t))) =
      some (0x0900, some (.decodeFailure 0x0900 (some (.sys 0x900)))) := by decide

/-- T3.16 -/
theorem test_glyph_write_allowed :
    (after (fun s => withGlyph .allow ((s.setIndex 0x004F).setReg 3 0x7B)) 0xF333).map (fun t => (t.byte 0x04F, t.byte 0x051)) = some (1, 3) := by decide

/-- T5.6 -/
theorem test_odd_target_without_alignment :
    (after (withAlign false) 0x1201).map (fun t => t.pc) = some 0x201 := by decide

/-- T5.6 -/
theorem test_odd_target_with_alignment :
    faultAfter (withAlign true) 0x1201 = some (.unevenAddress 0x201 (some (.jp 0x201))) := by decide

/-- T6.5, T6.6 -/
theorem test_timer_tick :
    ((timerTick ((State.reset.setDt 1).setSt 255)).dt, (timerTick ((State.reset.setDt 1).setSt 255)).st, (timerTick State.reset).dt) = (0, 254, 0) := by decide

/-- T6.16 -/
theorem test_key_press_resolves :
    (nextState? (keyEvent 7 true (State.reset.setWait (.awaitingKey 2)))).map (fun t => (t.reg 2, t.key 7, t.wait, t.pc)) = some (7, true, .ready, 0x200) := by decide

/-- T6.14 -/
theorem test_key_release_does_not :
    (nextState? (keyEvent 7 false (State.reset.setWait (.awaitingKey 2)))).map (fun t => (t.reg 2, t.key 7, t.wait)) = some (0, false, .awaitingKey 2) := by decide

/-- T6.15 -/
theorem test_key_index_16 :
    faultOf? (keyEvent 16 true (State.reset.setWait (.awaitingKey 2))) = some (.invalidKeyIndex 16 none) := by decide

/-- T6.23, T6.24 -/
theorem test_batch_faults_and_ticks :
    ((batchTick 10 ((State.reset.setDt 3).withFetchWord 16 0x00EE)).1.dt, (batchTick 0 (State.reset.setDt 3)).1.dt) = (2, 2) := by decide

/-- T6.22 -/
theorem test_batch_stops_at_wait :
    let t := (batchTick 10 (withBytes 0x200 [0xF2, 0x0A, 0x60, 0x01] State.reset)).1; (t.wait, t.pc, t.reg 0) = (.awaitingKey 2, 0x202, 0) := by decide

/-- T8 -/
theorem test_construct_odd_image :
    (nextState? (construct defaultConfig [0x12])).map (fun t => (t.fetchWord, t.byte 0x04B, t.byte 0x050, t.pc)) = some (0x1200, 0xF0, 0, 0x200) := by decide

/-- T8 -/
theorem test_construct_empty_is_reset :
    nextState? (construct defaultConfig []) = some State.reset := by decide

/-- T8: 3584 bytes do not fit. -/
theorem test_construct_refuses : construct defaultConfig (List.replicate 3584 0xAA) = .refused (.imageTooLong 3584) := by
  rw [construct, if_pos (by rw [List.length_replicate]; decide), List.length_replicate]

/-! ## Witnesses: concrete states and operands that meet the hypotheses of the statements

A comment names the statement. The statements that complete without a hypothesis are met by the one-step tests above. -/

-- DecodeOfEncodeIsTheInstruction, at the edges of the one check
theorem witness_wf_sys_edge : (Instr.sys 0x0E1).wellFormed = true ∧ (Instr.sys 0xFFF).wellFormed = true ∧ (Instr.drw 15 15 15).wellFormed = true := by decide

-- EncodeOfDecodeIsTheWord, DecodeFollowsTheOpcodeMap
theorem witness_decode_ok : decode 0xDFFF = .ok (.drw 15 15 15) ∧ decode 0x00E1 = .ok (.sys 0x0E1) := by decide
theorem witness_row_selects : ∃ r ∈ exactRows, r.selects 0x00EE = true := by decide

-- IllegalWordsAreTheFiveGroups, one word of each group
theorem witness_illegal_groups : decode 0x5001 = .error (.decodeFailure 0x5001) ∧ decode 0x9FFF = .error (.decodeFailure 0x9FFF) ∧
    decode 0x800D = .error (.decodeFailure 0x800D) ∧ decode 0xE0A2 = .error (.decodeFailure 0xE0A2) ∧
    decode 0xF066 = .error (.decodeFailure 0xF066) := by decide

-- StepRunsTheDecodedInstruction, at the last address a word can be fetched from
theorem witness_step_runs : let s := (withPc 0xFFD State.reset).withFetchWord 16 0x6A2C
    s.wait = .ready ∧ s.pc.toNat + 2 ≤ memSize ∧ (Instr.ldByte 0xA 0x2C).wellFormed = true ∧
    [s.byte s.pc.toNat, s.byte (s.pc.toNat + 1)] = encodeBytes (.ldByte 0xA 0x2C) ∧
    decode (wordOfBytes (s.byte s.pc.toNat) (s.byte (s.pc.toNat + 1))) = .ok (.ldByte 0xA 0x2C) := by decide

-- PlacedWordRunsNext, at a pc that can fetch and at one that cannot
theorem witness_placed : decodeTableWord 16 0x6A2C = some (.ldByte 0xA 0x2C) ∧ (withPc 0xFFD State.reset).pc.toNat + 2 ≤ memSize ∧
    ¬ (withPc 0xFFE State.reset).pc.toNat + 2 ≤ memSize := by decide

-- FetchIsBigEndian
theorem witness_fetch : (before id 0xA200).pc = 0x200 ∧ (before id 0xA200).byte 0x200 = 0xA2 ∧ (before id 0xA200).byte 0x201 = 0x00 := by decide

-- WaitingStepDoesNothing, and the wait of the other statements
theorem witness_waiting : (State.reset.setWait (.awaitingKey 2)).wait = .awaitingKey 2 := by decide

-- FetchPastTheBankFaults: its two ranges at their edges
theorem witness_fetch_past : (withPc 0xFFE State.reset).wait = .ready ∧ (withPc 0xFFE State.reset).pc.toNat = 0xFFE ∧ 0xFFF ≤ (withPc 0xFFF State.reset).pc.toNat ∧
    0xFFF ≤ (withPc 0xFFFF State.reset).pc.toNat := by decide

-- UndecodableWordFaults
theorem witness_undecodable : let s := before id 0x5121
    s.wait = .ready ∧ s.pc.toNat + 2 ≤ memSize ∧ decode s.fetchWord = .error (.decodeFailure 0x5121) := by decide

-- SelfJumpIsAFixedPoint
theorem witness_self_jump : let s := before id 0x1200
    s.wait = .ready ∧ s.pc.toNat + 2 ≤ memSize ∧ decode s.fetchWord = .ok (.jp 0x200) ∧ (0x200 : Addr12).toNat = s.pc.toNat ∧
    legalTarget s.cfg s.pc.toNat := by unfold legalTarget; decide

-- ConstructLoadsTheImage: the longest image, and one byte more
theorem witness_image_fits : (List.replicate 3583 (0xAA : Byte)).length ≤ 3583 ∧ 3583 < (List.replicate 3584 (0xAA : Byte)).length := by
  rw [List.length_replicate, List.length_replicate]; decide

-- GlyphAddressOfADigit: the last digit, and the first value that is none
theorem witness_digit : ((State.reset.setReg 0 15).reg 0).toNat ≤ 15 ∧ 15 < ((State.reset.setReg 0 16).reg 0).toNat := by decide

-- DecimalStoreWritesThreeDigits: the last legal range, the first one above the glyph table, and one inside it under `allow`
theorem witness_decimal : let s := fun a => State.reset.setIndex a
    legalStore (s 0xFFC).cfg ((s 0xFFC).effectiveAddress 0) 3 ∧ legalStore (s 0x050).cfg ((s 0x050).effectiveAddress 0) 3 ∧
    legalStore (withGlyph .allow (s 0)).cfg ((withGlyph .allow (s 0)).effectiveAddress 0) 3 := by unfold legalStore; decide

-- SpillStoresRegistersInclusive, FillLoadsRegistersInclusive: sixteen registers up to the last byte, one register at the first legal address
theorem witness_spill : let s := fun a => State.reset.setIndex a
    legalStore (s 0xFEF).cfg ((s 0xFEF).effectiveAddress 0) ((15 : RegIdx).val + 1) ∧
    legalStore (s 0x050).cfg ((s 0x050).effectiveAddress 0) ((0 : RegIdx).val + 1) := by unfold legalStore; decide
theorem witness_fill : (State.reset.setIndex 0xFEF).effectiveAddress 0 + ((15 : RegIdx).val + 1) ≤ memSize := by decide

-- MemoryRangeFaults: the first range past the bank for each form, and the last glyph byte
theorem witness_range_faults : memSize < (State.reset.setIndex 0xFFD).effectiveAddress 0 + 3 ∧
    memSize < (State.reset.setIndex 0xFF0).effectiveAddress 0 + ((15 : RegIdx).val + 1) ∧
    (State.reset.setIndex 0x04F).cfg.glyphWrite = .fault ∧ (State.reset.setIndex 0x04F).index.toNat ≤ 0x04F := by decide

-- FillThenSpillRestoresMemory, both orders
theorem witness_fill_then_spill : ∃ t u, exec (.ldVxMem 3) (State.reset.setIndex 0x300) = .next t ∧ exec (.ldMemVx 3) t = .next u := ⟨_, _, rfl, rfl⟩
theorem witness_spill_then_fill : ∃ t u, exec (.ldMemVx 3) (State.reset.setIndex 0x300) = .next t ∧ exec (.ldVxMem 3) t = .next u := ⟨_, _, rfl, rfl⟩

-- StoredInstructionRunsNext: the spill writes 0x602C at 0x202
theorem witness_stored_runs : let s := ((State.reset.setIndex 0x202).setReg 0 0x60).setReg 1 0x2C
    s.wait = .ready ∧ (∃ t, exec (.ldMemVx 1) s = .next t) ∧ (1 : RegIdx).val = (0 : RegIdx).val + 1 ∧ (1 : RegIdx) ≤ 1 ∧
    s.effectiveAddress (0 : RegIdx).val = s.pc.toNat + 2 ∧ decode (wordOfBytes (s.reg 0) (s.reg 1)) = .ok (.ldByte 0 0x2C) := 
  ⟨rfl, ⟨_, rfl⟩, by decide⟩

-- ShiftsWriteFlagThenResult under both settings, with X = F and without
theorem witness_shift_vx : let s := State.reset.setReg vf 0x81
    (s.cfg.shiftSrc = .vx → (0x81 : Byte) = s.reg vf) ∧ (s.cfg.shiftSrc = .vy → (0x81 : Byte) = s.reg 2) := by decide
theorem witness_shift_vy : let s := withShift .vy (State.reset.setReg 2 0x85)
    (s.cfg.shiftSrc = .vx → (0x85 : Byte) = s.reg 1) ∧ (s.cfg.shiftSrc = .vy → (0x85 : Byte) = s.reg 2) ∧ (1 : RegIdx) ≠ vf := by decide

-- AddWritesSumThenCarry, SubtractWritesDifferenceThenNotBorrow, RandomByteIsMasked: their inner premises
theorem witness_inner : (1 : RegIdx) ≠ vf ∧ (0x0F : Byte).getLsbD 4 = false := by decide

-- RegistersChangeOnlyAsDestinationOrFlag: an ordinary register, and VF of an instruction without a flag
theorem witness_register_kept : (∃ t, exec (.addReg 1 2) State.reset = .next t) ∧ destination (.addReg 1 2) 2 = false ∧ ((2 : RegIdx) = vf → writesFlag (.addReg 1 2) = false) := 
  ⟨⟨_, rfl⟩, by decide⟩
theorem witness_vf_kept : (∃ t, exec (.orReg 1 2) State.reset = .next t) ∧ destination (.orReg 1 2) vf = false ∧ (vf = vf → writesFlag (.orReg 1 2) = false) := 
  ⟨⟨_, rfl⟩, by decide⟩

-- JumpSetsPcToTheTarget: both ends of the legal range, an odd target without the alignment check, and a sum at the top
theorem witness_legal_targets : legalTarget State.reset.cfg (0x200 : Addr12).toNat ∧ legalTarget State.reset.cfg (0xFFE : Addr12).toNat ∧
    legalTarget (withAlign false State.reset).cfg (0x201 : Addr12).toNat ∧
    legalTarget (State.reset.setReg 0 0xFF).cfg ((0xEFF : Addr12).toNat + ((State.reset.setReg 0 0xFF).reg 0).toNat) := by
  unfold legalTarget; decide

-- IllegalTargetsFault: each range at its edge, the odd targets nearest them, for 1NNN, 2NNN and BNNN
theorem witness_illegal_range : ((0x1FF : Addr12).toNat < 0x200 ∨ 0xFFE < (0x1FF : Addr12).toNat) ∧ ((0xFFF : Addr12).toNat < 0x200 ∨ 0xFFE < (0xFFF : Addr12).toNat) ∧
    State.reset.sp ≠ 15 := by decide
theorem witness_illegal_odd : 0x200 ≤ (0x201 : Addr12).toNat ∧ (0x201 : Addr12).toNat ≤ 0xFFE ∧ (0xFFD : Addr12).toNat ≤ 0xFFE ∧
    State.reset.cfg.strictAlign = true ∧ (0x201 : Addr12).toNat % 2 = 1 ∧ (0xFFD : Addr12).toNat % 2 = 1 := by decide
theorem witness_illegal_sum : 0xFFE < (0xFFE : Addr12).toNat + ((State.reset.setReg 0 1).reg 0).toNat ∧ (0x1FE : Addr12).toNat + ((State.reset.setReg 0 1).reg 0).toNat < 0x200 := by decide
theorem witness_odd_sum : let t := (0x200 : Addr12).toNat + ((State.reset.setReg 0 1).reg 0).toNat
    0x200 ≤ t ∧ t ≤ 0xFFE ∧ (State.reset.setReg 0 1).cfg.strictAlign = true ∧ t % 2 = 1 := by decide

-- CallPushesItsOwnAddress, CallThenReturnIsANormalAdvance: the last free slot, and none
theorem witness_call_room : (withSp 14 State.reset).sp ≠ 15 ∧ legalTarget (withSp 14 State.reset).cfg (0x300 : Addr12).toNat ∧ (withSp 15 State.reset).sp = 15 := by
  unfold legalTarget; decide
theorem witness_call_next : ∃ t, exec (.call 0x300) (withSp 14 State.reset) = .next t := ⟨_, rfl⟩

-- ReturnResumesAfterTheCall: the last entry, and none
theorem witness_return : (withSp 1 State.reset).sp ≠ 0 ∧ State.reset.sp = 0 := by decide

-- SysFollowsItsPolicy
theorem witness_sys_policies : (withSys .nop State.reset).cfg.sysPolicy = .nop ∧ State.reset.cfg.sysPolicy = .fault := by decide

-- KeySkipsTestTheNamedKey: the last key, and the first value that names none
theorem witness_key_index : ((State.reset.setReg 1 15).reg 1).toNat = (15 : Fin 16).val ∧ 15 < ((State.reset.setReg 1 16).reg 1).toNat := by decide

-- DrawXorsTheSpriteAndAccumulatesCollision: the last origin with the last fifteen bytes of the bank, and N = 0 with I past it
theorem witness_draw : let s := ((State.reset.setReg 0 63).setReg 1 31).setIndex 0xFF0
    (s.reg 0).toNat < 64 ∧ (s.reg 1).toNat < 32 ∧ ((15 : Nibble).val = 0 ∨ s.effectiveAddress 0 + (15 : Nibble).val ≤ memSize) := by decide
theorem witness_draw_no_rows : let s := State.reset.setIndex 0xFFFF
    (s.reg 0).toNat < 64 ∧ (s.reg 1).toNat < 32 ∧ ((0 : Nibble).val = 0 ∨ s.effectiveAddress 0 + (0 : Nibble).val ≤ memSize) := by decide
theorem witness_draw_covers : (State.reset.setReg 0 63).covers 0 1 1 0 1 0 0 := by
  unfold State.covers; decide

-- DrawFaults: the first column and the first row outside, and the first sprite past the bank
theorem witness_draw_faults : 64 ≤ ((State.reset.setReg 0 64).reg 0).toNat ∧ 32 ≤ ((State.reset.setReg 1 32).reg 1).toNat ∧
    (State.reset.reg 0).toNat < 64 ∧ (State.reset.reg 1).toNat < 32 ∧ 0 < (1 : Nibble).val ∧
    memSize < (State.reset.setIndex 0xFFF).effectiveAddress 0 + (1 : Nibble).val := by decide

-- DrawingTwiceErases: the glyph 0 on a dark display
theorem witness_draw_twice : ∃ t u, exec (.drw 0 1 5) State.reset = .next t ∧ exec (.drw 0 1 5) t = .next u ∧ t.reg 0 = State.reset.reg 0 ∧ t.reg 1 = State.reset.reg 1 := 
  ⟨_, _, rfl, rfl, rfl, rfl⟩
theorem witness_draw_twice_lit : (∀ r c, State.reset.pixel r c = false) ∧ 0 < (5 : Nibble).val ∧ State.reset.spriteOn 0 0 = true := ⟨fun r c => by simp [State.pixel, State.reset, readPixel, darkDisplay], by decide⟩

-- KeyEventRecordsAndResolves, OnlyAKeyPressLeavesTheWait: the first index outside, the last one, and each premise of the clauses
theorem witness_key_event : 15 < 16 ∧ (15 : Nat) = (15 : Fin 16).val ∧ (false = false ∨ State.reset.wait = .ready) ∧ (State.reset.setWait (.awaitingKey 2)).wait = .awaitingKey 2 := by decide
theorem witness_other_events : (∀ k, k ≤ 15 → HostEvent.keyEvent 16 true ≠ .keyEvent k true) ∧ (∀ k, k ≤ 15 → HostEvent.keyEvent 3 false ≠ .keyEvent k true) ∧
    (∀ k, k ≤ 15 → HostEvent.stepRequest ≠ .keyEvent k true) := by
  refine ⟨?_, ?_, ?_⟩ <;> (intro k hk h; cases h)
  omega

-- EngineStateTransitions: FX0A, another instruction, a step that faults, and a press of the first key that does not exist while waiting (its constructed machine is that of witness_construct)
theorem witness_engine_bad_press : (State.reset.setWait (.awaitingKey 2)).wait = .awaitingKey 2 ∧ 15 < 16 ∧ faultOf? (keyEvent 16 true (State.reset.setWait (.awaitingKey 2))) = some (.invalidKeyIndex 16 none) := by decide
theorem witness_engine_key_wait : let s := before id 0xF20A
    s.wait = .ready ∧ s.pc.toNat + 2 ≤ memSize ∧ decode s.fetchWord = .ok (.ldVxK 2) := by decide
theorem witness_engine_other : let s := before id 0x6005
    s.wait = .ready ∧ decode s.fetchWord = .ok (.ldByte 0 5) ∧ (∀ x, Instr.ldByte 0 5 ≠ .ldVxK x) ∧ (nextState? (step s)).isSome = true := 
  ⟨rfl, by decide, (fun x h => nomatch h), by decide⟩
theorem witness_engine_fault : step (before id 0x00EE) = .fault (.stackUnderflow (some .ret)) := rfl

-- BatchTickIsStepsThenOneTick: see witness_waiting and witness_engine_fault for two of its clauses
theorem witness_batch_goes_on : (before id 0x6005).wait = .ready ∧ (nextState? (step (before id 0x6005))).isSome = true := by decide

-- ProgramCounterMovesAsListed, EachPieceOfStateHasItsWriters: an instruction of each shape completes
theorem witness_shapes : let s := (State.reset.setReg 1 5).push 0x300
    (∃ t, exec .cls s = .next t) ∧ (∃ t, exec (.seByte 1 5) s = .next t) ∧ (∃ t, exec (.sneByte 1 5) s = .next t) ∧
    (∃ t, exec (.seReg 1 2) s = .next t) ∧ (∃ t, exec (.sneReg 1 2) s = .next t) ∧ (∃ t, exec (.skp 1) s = .next t) ∧
    (∃ t, exec (.sknp 1) s = .next t) ∧ (∃ t, exec (.jp 0x300) s = .next t) ∧ (∃ t, exec (.call 0x300) s = .next t) ∧
    (∃ t, exec (.jpV0 0x300) s = .next t) ∧ (∃ t, exec .ret s = .next t) := 
  ⟨⟨_, rfl⟩, ⟨_, rfl⟩, ⟨_, rfl⟩, ⟨_, rfl⟩, ⟨_, rfl⟩, ⟨_, rfl⟩, ⟨_, rfl⟩, ⟨_, rfl⟩, ⟨_, rfl⟩, ⟨_, rfl⟩, ⟨_, rfl⟩⟩
theorem witness_writers : let i := Instr.ldByte 1 5
    (∀ nnn, i ≠ .ldI nnn) ∧ (∀ x, i ≠ .addI x) ∧ (∀ x, i ≠ .ldF x) ∧ (∀ x, i ≠ .ldDtVx x) ∧ (∀ x, i ≠ .ldStVx x) ∧ (∀ nnn, i ≠ .call nnn) ∧
    i ≠ .ret ∧ (∀ x, i ≠ .ldB x) ∧ (∀ x, i ≠ .ldMemVx x) ∧ i ≠ .cls ∧ (∀ x y n, i ≠ .drw x y n) ∧ (∀ x, i ≠ .ldVxK x) ∧ (∀ x kk, i ≠ .rnd x kk) := by
  simp

-- OnlyTheKeySkipsReadTheKeys, NoInstructionReadsTheSoundTimer
theorem witness_not_a_key_skip : (∀ x, Instr.cls ≠ .skp x) ∧ (∀ x, Instr.cls ≠ .sknp x) ∧ (∀ x, Instr.cls ≠ .ldStVx x) ∧ (∃ t, exec .cls State.reset = .next t) ∧
    (∀ k pressed, HostEvent.timerTick ≠ .keyEvent k pressed) := 
  ⟨by simp, by simp, by simp, ⟨_, rfl⟩, by simp⟩

-- AFaultRepeatsForEver: see witness_engine_fault

-- CanonicalMemoriesThatReadAlikeAreEqual: a memory with a changed glyph byte and a program byte
theorem witness_canonical : Memory.wf [(0x000, 0x00), (0x200, 0x12)] = true := by decide

-- EveryStepKeepsTheInvariant: a state with a program and a live stack entry, and its step
theorem witness_invariant : (State.reset.push 0x300 |>.withFetchWord 16 0x00EE).Inv ∧ ∃ t, step (State.reset.push 0x300 |>.withFetchWord 16 0x00EE) = .next t := by
  refine ⟨⟨by decide, by decide, by decide, ?_⟩, _, rfl⟩
  unfold returnAddressOk
  decide

-- EveryReachableStateMeetsTheInvariant: its state with the invariant is that of witness_invariant, its constructed machine this one
theorem witness_construct : ∃ s, construct defaultConfig [0x12, 0x00] = .next s := ⟨_, rfl⟩

end Sys2Proof.Tests
end

section
/-! PROOF. Every instruction in one form: the checks it makes, then the state in which all its writes stand. What an instruction changes,
keeps or reads is then a fact about two functions, and no proof below takes `exec` apart again. -/

namespace Sys2Proof.Machine

/-! ## Executing is checking, then writing -/

/-- The first fault an instruction raises from `s`, if any (60_exceptions.md R279). -/
def execCheck (i : Instr) (s : State) : Option Fault :=
  match i with
  | .sys nnn => checkSys nnn s.cfg
  | .ret => checkPop i s.sp
  | .jp nnn => checkTarget i s.cfg (absoluteTarget nnn)
  | .call nnn => (checkPush i s.sp).or (checkTarget i s.cfg (absoluteTarget nnn))
  | .jpV0 nnn => checkTarget i s.cfg (s.offsetTarget nnn)
  | .drw x y n => (checkOrigin i (s.reg x) (s.reg y)).or (checkRange (some i) (s.effectiveAddress 0) n.val)
  | .skp x => checkKey (some i) (s.reg x).toNat
  | .sknp x => checkKey (some i) (s.reg x).toNat
  | .ldF x => checkDigit i (s.reg x)
  | .ldB _ => checkStore i s.cfg (s.effectiveAddress 0) 3
  | .ldMemVx x => checkStore i s.cfg (s.effectiveAddress 0) (x.val + 1)
  | .ldVxMem x => checkRange (some i) (s.effectiveAddress 0) (x.val + 1)
  | _ => none

/-- The state an instruction leaves when it raises no fault. -/
def execEffect (i : Instr) (s : State) : State :=
  match i with
  | .sys _ => s.advance
  | .cls => (s.setDisplay darkDisplay).advance
  | .ret => s.pop.resumeAfter s.top
  | .jp nnn => s.jumpTo (absoluteTarget nnn)
  | .call nnn => (s.push s.pc).jumpTo (absoluteTarget nnn)
  | .seByte x kk => s.skipIf (s.reg x == kk)
  | .sneByte x kk => s.skipIf (s.reg x != kk)
  | .seReg x y => s.skipIf (s.reg x == s.reg y)
  | .ldByte x kk => (s.setReg x kk).advance
  | .addByte x kk => (s.setReg x (addBytes (s.reg x) kk)).advance
  | .ldReg x y => (s.setReg x (s.reg y)).advance
  | .orReg x y => (s.setReg x (s.reg x ||| s.reg y)).advance
  | .andReg x y => (s.setReg x (s.reg x &&& s.reg y)).advance
  | .xorReg x y => (s.setReg x (s.reg x ^^^ s.reg y)).advance
  | .addReg x y => (s.resultThenFlag x (addBytes (s.reg x) (s.reg y)) (carries (s.reg x) (s.reg y))).advance
  | .subReg x y => (s.resultThenFlag x (subBytes (s.reg x) (s.reg y)) (noBorrow (s.reg x) (s.reg y))).advance
  | .shr x y => (s.flagThenResult x (shiftRight (s.shiftOperand x y)) (shiftRightFlag (s.shiftOperand x y))).advance
  | .subn x y => (s.resultThenFlag x (subBytes (s.reg y) (s.reg x)) (noBorrow (s.reg y) (s.reg x))).advance
  | .shl x y => (s.flagThenResult x (shiftLeft (s.shiftOperand x y)) (shiftLeftFlag (s.shiftOperand x y))).advance
  | .sneReg x y => s.skipIf (s.reg x != s.reg y)
  | .ldI nnn => (s.setIndex (nnn.setWidth 16)).advance
  | .jpV0 nnn => s.jumpTo (s.offsetTarget nnn)
  | .rnd x kk => rndWith (Config.freeByte s.draws) x kk s
  | .drw x y n => ((s.setDisplay (s.drawn x y n).surface).setReg vf (flagByte (s.drawn x y n).collision)).advance
  | .skp x => s.skipIf (s.keyNamed (s.reg x))
  | .sknp x => s.skipIf (!s.keyNamed (s.reg x))
  | .ldVxDt x => (s.setReg x s.dt).advance
  | .ldVxK x => (s.setWait (.awaitingKey x)).advance
  | .ldDtVx x => (s.setDt (s.reg x)).advance
  | .ldStVx x => (s.setSt (s.reg x)).advance
  | .addI x => (s.setIndex (BitVec.ofNat 16 ((s.index.toNat + (s.reg x).toNat) % 65536))).advance
  | .ldF x => (s.setIndex (glyphAddress (s.reg x))).advance
  | .ldB x => (s.setMem (writeBytes s.mem (s.effectiveAddress 0) (decimalDigits (s.reg x)))).advance
  | .ldMemVx x => (s.setMem (writeBytes s.mem (s.effectiveAddress 0) (s.spillBytes x))).advance
  | .ldVxMem x => (s.setRegs (s.filledRegs x (s.effectiveAddress 0))).advance

theorem exec_eq_complete (i : Instr) (s : State) : exec i s = complete (execCheck i s) (execEffect i s) := by
  cases i <;> rfl

theorem exec_eq_next {i : Instr} {s t : State} : exec i s = .next t ↔ execCheck i s = none ∧ t = execEffect i s := by
  rw [exec_eq_complete, complete_eq_next]

/-- An instruction does not read what `f` replaces, where `f` passes through its checks and its writes. -/
theorem exec_eq_mapNext {f : State → State} {i : Instr} {s : State} (hcheck : execCheck i (f s) = execCheck i s)
    (heffect : execEffect i (f s) = f (execEffect i s)) : exec i (f s) = mapNext f (exec i s) := by
  rw [exec_eq_complete, exec_eq_complete, mapNext_complete, hcheck, heffect]

/-! ## Registers (10_state.md R33) -/

theorem execEffect_reg_of_not_destination {i : Instr} {r : RegIdx} (s : State) (hdest : destination i r = false)
    (hflag : r = vf → writesFlag i = false) : (execEffect i s).reg r = s.reg r := by
  cases i with
  | ldByte x | addByte x | ldReg x | orReg x | andReg x | xorReg x | rnd x | ldVxDt x =>
    have hx : r ≠ x := by simpa [destination] using hdest
    exact s.reg_setReg_of_ne _ hx
  | addReg x | subReg x | subn x =>
    have hx : r ≠ x := by simpa [destination] using hdest
    have hvf : r ≠ vf := by simpa [writesFlag] using hflag
    simp [execEffect, State.reg_resultThenFlag, hx, hvf]
  | shr x | shl x =>
    have hx : r ≠ x := by simpa [destination] using hdest
    have hvf : r ≠ vf := by simpa [writesFlag] using hflag
    simp [execEffect, State.reg_flagThenResult, hx, hvf]
  | drw x y n =>
    have hvf : r ≠ vf := by simpa [writesFlag] using hflag
    exact State.reg_setReg_of_ne _ _ hvf
  | ldVxMem x =>
    have hx : ¬ r ≤ x := by simpa [destination] using hdest
    simp only [execEffect, State.advance_reg, State.reg_filledRegs, if_neg hx]
  | _ => rfl

/-- Settles O32: an instruction that goes on leaves its effect, and the effect writes only destinations and flags. -/
theorem registersChangeOnlyAsDestinationOrFlag : Obligations.RegistersChangeOnlyAsDestinationOrFlag := by
  intro i s t r h hdest hflag
  obtain ⟨-, rfl⟩ := exec_eq_next.1 h
  exact execEffect_reg_of_not_destination s hdest hflag

/-! ## The program counter (10_state.md R35) -/

/-- A target that passes its check fits the program counter. -/
theorem toNat_jumpTo_pc {ins : Instr} {cfg : Config} {t : Nat} (s : State) (h : checkTarget ins cfg t = none) :
    (s.jumpTo t).pc.toNat = t := by
  obtain ⟨-, hhi, -⟩ := checkTarget_eq_none.1 h
  rw [State.jumpTo_pc, BitVec.toNat_ofNat]
  exact Nat.mod_eq_of_lt (hhi.trans_lt (by decide))

/-- A register that passes the key check names a key. -/
theorem exists_keyNamed {ins : Option Instr} {b : Byte} (s : State) (h : checkKey ins b.toNat = none) :
    ∃ k : Fin 16, b.toNat = k.val ∧ s.keyNamed b = s.key k := by
  have hb := checkKey_eq_none.1 h
  exact ⟨⟨b.toNat, by omega⟩, rfl, congrArg s.key (finOfNat_val ⟨b.toNat, by omega⟩)⟩

theorem step_of_awaiting {s : State} {r : RegIdx} (h : s.wait = .awaitingKey r) : step s = .next s := by
  simp [step, stepEngine, h]

/-- A step request that faults, or that meets a wait, leaves the host with the state it had (40_step_engine.md R141, D3). -/
theorem stepRequest_fst_of_stopped {s : State} (h : (∃ f, step s = .fault f) ∨ ∃ r, s.wait = .awaitingKey r) :
    (stepRequest s).1 = s := by
  obtain ⟨f, hf⟩ | ⟨r, hr⟩ := h
  · rw [stepRequest, hf, hostView_fault]
  · rw [stepRequest, step_of_awaiting hr, hostView_next]

/-- Settles O51: the skips, the transfers and the return each by the law of their move of pc; every other effect ends in the normal advance. -/
theorem programCounterMovesAsListed : Obligations.ProgramCounterMovesAsListed := by
  refine ⟨fun i s t h => ?_, fun s h => congrArg State.pc (stepRequest_fst_of_stopped h)⟩
  obtain ⟨hcheck, rfl⟩ := exec_eq_next.1 h
  cases i with
  | seByte | sneByte | seReg | sneReg => simp [execEffect]
  | skp x | sknp x =>
    obtain ⟨k, hk, hkey⟩ := exists_keyNamed s hcheck
    exact ⟨k, hk, by simp [execEffect, hkey]⟩
  | jp nnn => exact toNat_jumpTo_pc s hcheck
  | jpV0 nnn => exact toNat_jumpTo_pc s hcheck
  | call nnn =>
    obtain ⟨-, htarget⟩ := Option.or_eq_none_iff.1 hcheck
    exact toNat_jumpTo_pc _ htarget
  | _ => rfl

/-! ## The keys (10_state.md R45) -/

theorem execCheck_withKeys (i : Instr) (s : State) (k : Vector Bool 16) : execCheck i (s.withKeys k) = execCheck i s := by
  cases i <;> rfl

theorem exec_withKeys {i : Instr} (s : State) (k : Vector Bool 16) (hskp : ∀ x, i ≠ .skp x) (hsknp : ∀ x, i ≠ .sknp x) :
    exec i (s.withKeys k) = mapNext (·.withKeys k) (exec i s) := by
  refine exec_eq_mapNext (f := (·.withKeys k)) (execCheck_withKeys i s k) ?_
  cases i with
  | skp x => exact absurd rfl (hskp x)
  | sknp x => exact absurd rfl (hsknp x)
  | _ => rfl

theorem execEffect_keys (i : Instr) (s : State) : (execEffect i s).keys = s.keys := by
  cases i <;> rfl

theorem exec_keys {i : Instr} {s t : State} (h : exec i s = .next t) : t.keys = s.keys := by
  obtain ⟨-, rfl⟩ := exec_eq_next.1 h
  exact execEffect_keys i s

theorem step_keys {s t : State} (h : step s = .next t) : t.keys = s.keys := by
  obtain ⟨rfl, -⟩ | ⟨-, -, i, -, hexec⟩ := step_cases_next h
  · rfl
  · exact exec_keys hexec

/-- What the host holds after a request meets `P` where the state before does and so does any next state. -/
theorem hostView_fst_of_next {P : State → Prop} {o : Host.Outcome State Fault Refusal} {s : State} (hs : P s)
    (hnext : ∀ t, o = .next t → P t) : P (hostView o s).1 := by
  cases o with
  | next t => exact hnext t rfl
  | fault f => exact hs
  | refused r => exact hs

/-- A property that every step keeps holds after the steps of a batch (60_exceptions.md R292). -/
theorem batchSteps_keeps {P : State → Prop} (hstep : ∀ s t, step s = .next t → P s → P t) (n : Nat) (s : State) (hs : P s) :
    P (batchSteps n s).1 := by
  induction n generalizing s with
  | zero => exact hs
  | succ n ih =>
    rw [batchSteps]
    split
    · exact hs
    · split
      · next t ht => exact ih t (hstep s t ht hs)
      · exact hs
      · exact hs

theorem timerTick_keys (s : State) : (timerTick s).keys = s.keys := rfl

theorem batchTick_keys (n : Nat) (s : State) : (batchTick n s).1.keys = s.keys :=
  (timerTick_keys _).trans
    (batchSteps_keeps (P := fun t => t.keys = s.keys) (fun _ _ ht hu => (step_keys ht).trans hu) n s rfl)

theorem deliver_keys {e : HostEvent} (s : State) (he : ∀ k pressed, e ≠ .keyEvent k pressed) : (deliver e s).1.keys = s.keys := by
  cases e with
  | stepRequest => exact hostView_fst_of_next (P := fun t => t.keys = s.keys) rfl (fun _ => step_keys)
  | timerTick => exact timerTick_keys s
  | keyEvent k pressed => exact absurd rfl (he k pressed)
  | batchTick n => exact batchTick_keys n s

/-- Settles O53: only the two key skips look at the keys, and nothing but a key event writes them. -/
theorem onlyTheKeySkipsReadTheKeys : Obligations.OnlyTheKeySkipsReadTheKeys :=
  ⟨fun _ s k hskp hsknp => exec_withKeys s k hskp hsknp, fun _ _ _ => exec_keys, fun _ s he => deliver_keys s he⟩

/-! ## The sound timer (10_state.md R39) -/

theorem execCheck_withSound (i : Instr) (s : State) (b : Byte) : execCheck i (s.withSound b) = execCheck i s := by
  cases i <;> rfl

theorem exec_withSound {i : Instr} (s : State) (b : Byte) (hst : ∀ x, i ≠ .ldStVx x) :
    exec i (s.withSound b) = mapNext (·.withSound b) (exec i s) := by
  refine exec_eq_mapNext (f := (·.withSound b)) (execCheck_withSound i s b) ?_
  cases i with
  | ldStVx x => exact absurd rfl (hst x)
  | _ => rfl

/-- FX18 overwrites the sound timer, so that nothing of its old value is left (44_timer_key.md R232). -/
theorem exec_ldStVx_withSound (s : State) (x : RegIdx) (b : Byte) :
    exec (.ldStVx x) (s.withSound b) = exec (.ldStVx x) s := rfl

theorem framebuffer_withSound (s : State) (b : Byte) : framebuffer (s.withSound b) = framebuffer s := rfl

/-- Settles O54: a replaced sound timer passes through every instruction but FX18, which overwrites it. -/
theorem noInstructionReadsTheSoundTimer : Obligations.NoInstructionReadsTheSoundTimer :=
  ⟨fun _ s b hst => exec_withSound s b hst, exec_ldStVx_withSound, framebuffer_withSound⟩

end Sys2Proof.Machine
end

section
/-! PROOF. The byte bank: one list for each bank (20_memory.md R78), what it holds after construction, and that a store of instruction
bytes is seen by the very next fetch (R83). -/

namespace Sys2Proof.Machine

/-! ## One list for each bank (20_memory.md R78) -/

theorem wfFrom_cons {lo k : Nat} {b : Byte} {m : Memory} :
    wfFrom lo ((k, b) :: m) = true ↔ lo ≤ k ∧ k < memSize ∧ b ≠ initialByte k ∧ wfFrom (k + 1) m = true := by
  simp [wfFrom, and_assoc]

theorem readByte_cons_self (k : Nat) (b : Byte) (m : Memory) : readByte ((k, b) :: m) k = b := by
  simp [readByte]

theorem readByte_cons_of_ne {k a : Nat} (b : Byte) (m : Memory) (h : k ≠ a) : readByte ((k, b) :: m) a = readByte m a := by
  simp [readByte, h]

/-- The first listed address of a canonical memory differs from the construction contents, so a memory that reads like it cannot begin
above that address. -/
theorem le_head_of_readByte_eq {lo lo' k : Nat} {b : Byte} {m m' : Memory} (hm : wfFrom lo ((k, b) :: m) = true)
    (hm' : wfFrom lo' m' = true) (hread : ∀ a, readByte ((k, b) :: m) a = readByte m' a) : lo' ≤ k := by
  obtain ⟨-, -, hb, -⟩ := wfFrom_cons.1 hm
  by_contra hlt
  apply hb
  calc b = readByte ((k, b) :: m) k := (readByte_cons_self k b m).symm
    _ = readByte m' k := hread k
    _ = initialByte k := wfFrom_lookup_lt lo' m' hm' k (by omega)

/-- Memories that read alike and begin with the same cell have tails that read alike: up to that cell both tails read as constructed. -/
theorem readByte_tail_eq {k : Nat} {b b' : Byte} {m m' : Memory} (hm : wfFrom (k + 1) m = true) (hm' : wfFrom (k + 1) m' = true)
    (hread : ∀ a, readByte ((k, b) :: m) a = readByte ((k, b') :: m') a) (a : Nat) : readByte m a = readByte m' a := by
  by_cases ha : a = k
  · rw [wfFrom_lookup_lt (k + 1) m hm a (by omega), wfFrom_lookup_lt (k + 1) m' hm' a (by omega)]
  · simpa only [readByte_cons_of_ne _ _ (Ne.symm ha)] using hread a

theorem eq_of_readByte_eq {lo : Nat} {m m' : Memory} (hm : wfFrom lo m = true) (hm' : wfFrom lo m' = true)
    (hread : ∀ a, readByte m a = readByte m' a) : m = m' := by
  induction m generalizing lo m' with
  | nil =>
    cases m' with
    | nil => rfl
    | cons c' m' =>
      have hle : c'.1 + 1 ≤ c'.1 := le_head_of_readByte_eq hm' (m' := []) rfl fun a => (hread a).symm
      omega
  | cons c m ih =>
    obtain ⟨k, b⟩ := c
    cases m' with
    | nil =>
      have hle : k + 1 ≤ k := le_head_of_readByte_eq hm (m' := []) rfl hread
      omega
    | cons c' m' =>
      obtain ⟨k', b'⟩ := c'
      obtain ⟨-, hk, hb, htail⟩ := wfFrom_cons.1 hm
      obtain ⟨-, hk', hb', htail'⟩ := wfFrom_cons.1 hm'
      have hle : k' ≤ k := le_head_of_readByte_eq hm (wfFrom_cons.2 ⟨le_rfl, hk', hb', htail'⟩) hread
      have hle' : k ≤ k' := le_head_of_readByte_eq hm' (wfFrom_cons.2 ⟨le_rfl, hk, hb, htail⟩) fun a => (hread a).symm
      obtain rfl : k = k' := by omega
      obtain rfl : b = b' := by simpa only [readByte_cons_self] using hread k
      rw [ih htail htail' (readByte_tail_eq htail htail' hread)]

/-- Settles O57, by induction on the two lists: what is read at the lowest listed address fixes the first cell. -/
theorem canonicalMemoriesThatReadAlikeAreEqual : Obligations.CanonicalMemoriesThatReadAlikeAreEqual :=
  fun _ _ => eq_of_readByte_eq

/-! ## The construction contents (10_state.md R49, 20_memory.md R72) -/

theorem map_range_initialByte : (List.range 80).map initialByte = glyphTable := by decide

theorem initialByte_above_glyphs {a : Nat} (h : 0x50 ≤ a) : initialByte a = 0 :=
  List.getD_eq_default _ _ h

theorem construct_reset_nil : construct State.reset.cfg [] = .next State.reset := rfl

theorem reset_reg (r : RegIdx) : State.reset.reg r = 0 := Vector.getElem_replicate r.isLt

theorem reset_slot (k : Fin 16) : State.reset.slot k = 0 := Vector.getElem_replicate k.isLt

theorem reset_key (k : Fin 16) : State.reset.key k = false := Vector.getElem_replicate k.isLt

/-- Settles O15: the bank lists no cell, so it reads as the glyph table below 0x50 and zero above it; each other piece of state is as
`State.reset` lists it. -/
theorem resetHoldsTheConstructionValues : Obligations.ResetHoldsTheConstructionValues :=
  ⟨construct_reset_nil, rfl, rfl, map_range_initialByte, fun _ => initialByte_above_glyphs, reset_reg, rfl, rfl, rfl, rfl, reset_slot,
    readPixel_darkDisplay, reset_key, rfl⟩

/-! ## A stored instruction is fetched by the next step (20_memory.md R83) -/

/-- A `Ready` engine whose fetch stays in the bank runs what the fetched word decodes to (40_step_engine.md R140). -/
theorem step_of_decode {s : State} {i : Instr} (hready : s.wait = .ready) (hpc : s.pc.toNat + 2 ≤ memSize)
    (hdecode : decode s.fetchWord = .ok i) : step s = exec i s := by
  simp only [step_of_ready hready, runInstruction, checkFetch_eq_none.2 hpc, decodeAndExecute, hdecode]

theorem toNat_advance_pc {s : State} (h : s.pc.toNat + 2 < 65536) : s.advance.pc.toNat = s.pc.toNat + 2 := by
  rw [State.advance_pc, BitVec.toNat_add]
  exact Nat.mod_eq_of_lt h

theorem effectiveAddress_eq_add (s : State) (k : Nat) : s.effectiveAddress k = s.effectiveAddress 0 + k := rfl

/-- The register spill leaves Vk at `I + k` (41_index_memory.md R164). -/
theorem execEffect_ldMemVx_byte (s : State) {x k : RegIdx} (hk : k ≤ x) :
    (execEffect (.ldMemVx x) s).byte (s.effectiveAddress k.val) = s.reg k := by
  have hlt : k.val < x.val + 1 := Nat.lt_succ_of_le hk
  have hlen : k.val < (s.spillBytes x).length := (s.spillBytes_length x).symm ▸ hlt
  calc (execEffect (.ldMemVx x) s).byte (s.effectiveAddress k.val)
      = (s.spillBytes x)[k.val] := readByte_writeBytes_inside (s.spillBytes x) s.mem (s.effectiveAddress 0) k.val hlen
    _ = s.reg k := List.getElem_eq_iff hlen |>.2 (s.getElem_spillBytes x k.val hlt)

/-- Settles O25: the spill's own range check keeps the next fetch in the bank, and the bytes it fetches are the two registers. -/
theorem storedInstructionRunsNext : Obligations.StoredInstructionRunsNext := by
  intro s t x k k' i hready hexec hk' hle hnext hdecode
  obtain ⟨hcheck, rfl⟩ := exec_eq_next.1 hexec
  have hrange : s.effectiveAddress 0 + (x.val + 1) ≤ 4095 := ((checkStore_eq_none (Nat.succ_ne_zero x.val)).1 hcheck).1
  have hkx : k.val + 1 ≤ x.val := hk' ▸ hle
  have hbank : s.pc.toNat + 4 ≤ 4095 := by rw [effectiveAddress_eq_add] at hnext; omega
  have hpc : (execEffect (.ldMemVx x) s).pc.toNat = s.effectiveAddress k.val :=
    (toNat_advance_pc (s := s) (by omega)).trans hnext.symm
  have hpc' : (execEffect (.ldMemVx x) s).pc.toNat + 1 = s.effectiveAddress k'.val := by
    rw [hpc, hk']; rfl
  have hword : (execEffect (.ldMemVx x) s).fetchWord = wordOfBytes (s.reg k) (s.reg k') := by
    rw [State.fetchWord, hpc', hpc, execEffect_ldMemVx_byte s (Nat.le_of_succ_le hkx), execEffect_ldMemVx_byte s hle]
  exact step_of_decode hready (show _ ≤ 4095 by omega) (hword ▸ hdecode)

end Sys2Proof.Machine
end

section
/-! PROOF. The codec: decoding and encoding undo each other on the well-formed instructions and the legal words (30_encoding.md R102,
R103, R107), the opcode map selects exactly the legal words (R108), and what a fetched word and the SYS word are. -/

namespace Sys2Proof

/-! ## A word from the fields that its layout fixes (30_encoding.md R103) -/

theorem wordA_inj {o : BitVec 4} {a b : Addr12} : wordA o a = wordA o b ↔ a = b :=
  ⟨fun h => by simpa using congrArg fieldNNN h, congrArg (wordA o)⟩

theorem wordA_of_fields {w : Word} {o : BitVec 4} (hO : fieldO w = o) : wordA o (fieldNNN w) = w :=
  hO ▸ wordA_fields w

theorem wordXK_of_fields {w : Word} {o : BitVec 4} (hO : fieldO w = o) : wordXK o (fieldX w) (fieldKK w) = w :=
  hO ▸ wordXK_fields w

theorem wordXY_of_fields {w : Word} {o n : BitVec 4} (hO : fieldO w = o) (hN : fieldN w = n) :
    wordXY o (fieldX w) (fieldY w) n = w :=
  hO ▸ hN ▸ wordXY_fields w

theorem wordXs_of_fields {w : Word} {o : BitVec 4} {kk : Byte} (hO : fieldO w = o) (hKK : fieldKK w = kk) :
    wordXs o (fieldX w) kk = w :=
  hO ▸ hKK ▸ wordXs_fields w

/-! ## The two literal codes (30_encoding.md R107, R108 rows 1 to 3) -/

/-- 00E0 and 00EE lie in group 0. -/
theorem ne_literals_of_fieldO {w : Word} (h : fieldO w ≠ 0) : w ≠ 0x00E0#16 ∧ w ≠ 0x00EE#16 :=
  ⟨fun e => h (e ▸ rfl), fun e => h (e ▸ rfl)⟩

/-- SYS is well-formed exactly when its word is neither literal code. -/
theorem wellFormed_sys {nnn : Addr12} :
    (Instr.sys nnn).wellFormed = true ↔ encode (.sys nnn) ≠ 0x00E0#16 ∧ encode (.sys nnn) ≠ 0x00EE#16 := by
  have hcls : encode (.sys nnn) = 0x00E0#16 ↔ nnn = 0x0E0#12 := wordA_inj (b := 0x0E0#12)
  have hret : encode (.sys nnn) = 0x00EE#16 ↔ nnn = 0x0EE#12 := wordA_inj (b := 0x0EE#12)
  simp [Instr.wellFormed, hcls, hret]

/-- Of the well-formed instructions only CLS and RET have a literal code. -/
theorem encode_ne_literals {i : Instr} (h : i.wellFormed = true) (hcls : i ≠ .cls) (hret : i ≠ .ret) :
    encode i ≠ 0x00E0#16 ∧ encode i ≠ 0x00EE#16 := by
  cases i with
  | sys nnn => exact wellFormed_sys.1 h
  | cls => exact absurd rfl hcls
  | ret => exact absurd rfl hret
  | _ => exact ne_literals_of_fieldO (by simp [encode])

/-! ## Decoding what was encoded -/

theorem decode_encode {i : Instr} (h : i.wellFormed = true) : decode (encode i) = .ok i := by
  by_cases hcls : i = .cls
  · rw [hcls]; rfl
  by_cases hret : i = .ret
  · rw [hret]; rfl
  obtain ⟨hne, hne'⟩ := encode_ne_literals h hcls hret
  rw [decode, if_neg hne, if_neg hne']
  cases i with
  | cls => exact absurd rfl hcls
  | ret => exact absurd rfl hret
  | ldReg | orReg | andReg | xorReg | addReg | subReg | shr | subn | shl => simp [encode, decodeGroup8]
  | skp | sknp => simp [encode, decodeGroupE]
  | ldVxDt | ldVxK | ldDtVx | ldStVx | addI | ldF | ldB | ldMemVx | ldVxMem => simp [encode, decodeGroupF]
  | _ => simp [encode]

theorem decode_of_encode {i : Instr} {w : Word} (hw : encode i = w) (h : i.wellFormed = true) : decode w = .ok i :=
  hw ▸ decode_encode h

theorem decodeBytes_encodeBytes {i : Instr} (h : i.wellFormed = true) (rest : List Byte) :
    decodeBytes (encodeBytes i ++ rest) = .ok (i, rest) := by
  simp [encodeBytes, decodeBytes, decode_encode h]

/-- Settles O1: the fields of each layout are the operands, and a well-formed SYS is neither literal code. -/
theorem decodeOfEncodeIsTheInstruction : Obligations.DecodeOfEncodeIsTheInstruction :=
  fun _ rest h => ⟨decode_encode h, decodeBytes_encodeBytes h rest⟩

/-! ## Encoding what was decoded -/

theorem encode_of_decodeGroup8 {w : Word} {i : Instr} (hO : fieldO w = 0x8#4) (h : decodeGroup8 w = .ok i) :
    encode i = w ∧ i.wellFormed = true := by
  unfold decodeGroup8 at h
  split at h <;> cases h
  all_goals next hN => exact ⟨wordXY_of_fields hO hN, rfl⟩

theorem encode_of_decodeGroupE {w : Word} {i : Instr} (hO : fieldO w = 0xE#4) (h : decodeGroupE w = .ok i) :
    encode i = w ∧ i.wellFormed = true := by
  unfold decodeGroupE at h
  split at h <;> cases h
  all_goals next hKK => exact ⟨wordXs_of_fields hO hKK, rfl⟩

theorem encode_of_decodeGroupF {w : Word} {i : Instr} (hO : fieldO w = 0xF#4) (h : decodeGroupF w = .ok i) :
    encode i = w ∧ i.wellFormed = true := by
  unfold decodeGroupF at h
  split at h <;> cases h
  all_goals next hKK => exact ⟨wordXs_of_fields hO hKK, rfl⟩

theorem encode_of_decode {w : Word} {i : Instr} (h : decode w = .ok i) : encode i = w ∧ i.wellFormed = true := by
  by_cases hcls : w = 0x00E0#16
  · rw [hcls] at h ⊢; cases h; exact ⟨rfl, rfl⟩
  by_cases hret : w = 0x00EE#16
  · rw [hret] at h ⊢; cases h; exact ⟨rfl, rfl⟩
  rw [decode, if_neg hcls, if_neg hret] at h
  -- the branches come in the order of `O`: `h_1` is `O` = 0, `h_16` is `O` = F, and no `O` is left for `h_17`
  split at h
  case h_1 hO =>
    have hw : encode (.sys (fieldNNN w)) = w := wordA_of_fields hO
    cases h
    exact ⟨hw, wellFormed_sys.2 (by rw [hw]; exact ⟨hcls, hret⟩)⟩
  case h_2 hO | h_3 hO | h_11 hO | h_12 hO => cases h; exact ⟨wordA_of_fields hO, rfl⟩
  case h_4 hO | h_5 hO | h_7 hO | h_8 hO | h_13 hO => cases h; exact ⟨wordXK_of_fields hO, rfl⟩
  case h_6 hO | h_10 hO =>
    split at h <;> cases h
    next hN => exact ⟨wordXY_of_fields hO hN, rfl⟩
  case h_9 hO => exact encode_of_decodeGroup8 hO h
  case h_14 hO => cases h; exact ⟨wordXY_of_fields hO (bitsOf_nibbleOf _).symm, rfl⟩
  case h_15 hO => exact encode_of_decodeGroupE hO h
  case h_16 hO => exact encode_of_decodeGroupF hO h
  case h_17 => cases h

/-- Settles O2: each branch of the decoder fixes the fields that its layout does not hold as operands. -/
theorem encodeOfDecodeIsTheWord : Obligations.EncodeOfDecodeIsTheWord :=
  fun _ _ => encode_of_decode

/-! ## What a row of the opcode map selects (30_encoding.md R108)

A mask keeps the opcode fields of a layout and clears its operands, so a row's test is a test of fields. -/

theorem and_F000 (w : Word) : w &&& 0xF000#16 = wordA (fieldO w) 0#12 :=
  calc w &&& 0xF000#16 = wordA (fieldO w) (fieldNNN w) &&& wordA (BitVec.allOnes 4) 0#12 := by rw [wordA_fields]; rfl
    _ = wordA (fieldO w &&& BitVec.allOnes 4) (fieldNNN w &&& 0#12) := BitVec.and_append
    _ = wordA (fieldO w) 0#12 := by rw [BitVec.and_allOnes, BitVec.and_zero]

theorem wordXs_and (o o' : BitVec 4) (x : RegIdx) (kk kk' : Byte) :
    wordXs o x kk &&& wordXs o' 0 kk' = wordXs (o &&& o') 0 (kk &&& kk') := by
  have hx : bitsOf x &&& bitsOf 0 = bitsOf 0 := BitVec.and_zero
  rw [wordXs, wordXs, BitVec.and_append, BitVec.and_append, hx, wordXs]

theorem wordXY_and (o o' : BitVec 4) (x y : RegIdx) (n n' : BitVec 4) :
    wordXY o x y n &&& wordXY o' 0 0 n' = wordXY (o &&& o') 0 0 (n &&& n') := by
  have hx (x : RegIdx) : bitsOf x &&& bitsOf 0 = bitsOf 0 := BitVec.and_zero
  rw [wordXY, wordXY, BitVec.and_append, BitVec.and_append, BitVec.and_append, hx, hx, wordXY]

theorem and_F0FF (w : Word) : w &&& 0xF0FF#16 = wordXs (fieldO w) 0 (fieldKK w) := by
  have h := wordXs_and (fieldO w) (BitVec.allOnes 4) (fieldX w) (fieldKK w) (BitVec.allOnes 8)
  rw [wordXs_fields, BitVec.and_allOnes, BitVec.and_allOnes] at h
  exact h

theorem and_F00F (w : Word) : w &&& 0xF00F#16 = wordXY (fieldO w) 0 0 (fieldN w) := by
  have h := wordXY_and (fieldO w) (BitVec.allOnes 4) (fieldX w) (fieldY w) (fieldN w) (BitVec.allOnes 4)
  rw [wordXY_fields, BitVec.and_allOnes, BitVec.and_allOnes] at h
  exact h

theorem selects_iff {r : OpcodeRow} {w : Word} : r.selects w = true ↔ w &&& r.mask = r.pattern := beq_iff_eq

/-- A row of mask F000 looks at `O` alone. -/
theorem selects_F000 {p w : Word} (hp : p &&& 0xF000#16 = p) : OpcodeRow.selects ⟨p, 0xF000⟩ w = true ↔ fieldO w = fieldO p := by
  rw [selects_iff, ← hp]
  constructor
  · intro h
    simpa [and_F000] using congrArg fieldO h
  · intro h
    simp [and_F000, h]

/-- A row of mask F0FF looks at `O` and `KK`. -/
theorem selects_F0FF {p w : Word} (hp : p &&& 0xF0FF#16 = p) :
    OpcodeRow.selects ⟨p, 0xF0FF⟩ w = true ↔ fieldO w = fieldO p ∧ fieldKK w = fieldKK p := by
  rw [selects_iff, ← hp]
  constructor
  · intro h
    exact ⟨by simpa [and_F0FF] using congrArg fieldO h, by simpa [and_F0FF] using congrArg fieldKK h⟩
  · intro h
    simp [and_F0FF, h]

/-- A row of mask F00F looks at `O` and `N`. -/
theorem selects_F00F {p w : Word} (hp : p &&& 0xF00F#16 = p) :
    OpcodeRow.selects ⟨p, 0xF00F⟩ w = true ↔ fieldO w = fieldO p ∧ fieldN w = fieldN p := by
  rw [selects_iff, ← hp]
  constructor
  · intro h
    exact ⟨by simpa [and_F00F] using congrArg fieldO h, by simpa [and_F00F] using congrArg fieldN h⟩
  · intro h
    simp [and_F00F, h]

/-- A row of mask FFFF selects one word. -/
theorem selects_FFFF {p w : Word} : OpcodeRow.selects ⟨p, 0xFFFF⟩ w = true ↔ w = p := by
  rw [selects_iff]
  exact Eq.congr_left BitVec.and_allOnes

/-- An instruction's word is selected by its row. -/
theorem opcodeRow_selects_encode (i : Instr) : (opcodeRow i).selects (encode i) = true := by
  cases i with
  | cls | ret => rfl
  | seReg | ldReg | orReg | andReg | xorReg | addReg | subReg | shr | subn | shl | sneReg =>
    exact (selects_F00F rfl).2 ⟨fieldO_wordXY _ _ _ _, fieldN_wordXY _ _ _ _⟩
  | skp | sknp | ldVxDt | ldVxK | ldDtVx | ldStVx | addI | ldF | ldB | ldMemVx | ldVxMem =>
    exact (selects_F0FF rfl).2 ⟨fieldO_wordXs _ _ _, fieldKK_wordXs _ _ _⟩
  | sys | jp | call | ldI | jpV0 => exact (selects_F000 rfl).2 (fieldO_wordA _ _)
  | seByte | sneByte | ldByte | addByte | rnd => exact (selects_F000 rfl).2 (fieldO_wordXK _ _ _)
  | drw => exact (selects_F000 rfl).2 (fieldO_wordXY _ _ _ _)

/-- Every row is the row of an instruction, since its pattern is itself a word of it. -/
theorem exists_opcodeRow_eq {r : OpcodeRow} (h : r ∈ sysRow :: exactRows) : ∃ i, opcodeRow i = r := by
  have hrows : ∀ r ∈ sysRow :: exactRows, (decode r.pattern).map opcodeRow = .ok r := by decide
  have hr := hrows r h
  cases hi : decode r.pattern with
  | ok i => rw [hi] at hr; cases hr; exact ⟨i, rfl⟩
  | error e => rw [hi] at hr; cases hr

theorem opcodeRow_mem (i : Instr) : opcodeRow i ∈ sysRow :: exactRows := by
  cases i <;> simp [opcodeRow, exactRows, sysRow]

theorem exists_decode_of_selects {i : Instr} {w : Word} (h : (opcodeRow i).selects w = true) : ∃ j, decode w = .ok j := by
  by_cases hcls : w = 0x00E0#16
  · exact ⟨.cls, by rw [hcls]; rfl⟩
  by_cases hret : w = 0x00EE#16
  · exact ⟨.ret, by rw [hret]; rfl⟩
  rw [decode, if_neg hcls, if_neg hret]
  cases i with
  | cls => exact absurd (selects_FFFF.1 h) hcls
  | ret => exact absurd (selects_FFFF.1 h) hret
  | seReg | sneReg =>
    obtain ⟨hO, hN⟩ := (selects_F00F rfl).1 h
    rw [hO]
    exact ⟨_, if_pos hN⟩
  | ldReg | orReg | andReg | xorReg | addReg | subReg | shr | subn | shl =>
    obtain ⟨hO, hN⟩ := (selects_F00F rfl).1 h
    rw [hO]
    exact ⟨_, by rw [decodeGroup8, hN]; rfl⟩
  | skp | sknp =>
    obtain ⟨hO, hKK⟩ := (selects_F0FF rfl).1 h
    rw [hO]
    exact ⟨_, by rw [decodeGroupE, hKK]; rfl⟩
  | ldVxDt | ldVxK | ldDtVx | ldStVx | addI | ldF | ldB | ldMemVx | ldVxMem =>
    obtain ⟨hO, hKK⟩ := (selects_F0FF rfl).1 h
    rw [hO]
    exact ⟨_, by rw [decodeGroupF, hKK]; rfl⟩
  | _ =>
    rw [(selects_F000 rfl).1 h]
    exact ⟨_, rfl⟩

/-- Rows that select one word agree where both masks look. -/
theorem pattern_and_mask_eq {r r' : OpcodeRow} {w : Word} (h : r.selects w = true) (h' : r'.selects w = true) :
    r.pattern &&& r'.mask = r'.pattern &&& r.mask :=
  calc r.pattern &&& r'.mask = w &&& r.mask &&& r'.mask := by rw [selects_iff.1 h]
    _ = w &&& r'.mask &&& r.mask := by rw [BitVec.and_assoc, BitVec.and_comm r.mask, BitVec.and_assoc]
    _ = r'.pattern &&& r.mask := by rw [selects_iff.1 h']

/-- Two of the exact rows differ in a bit that both masks keep. -/
theorem exactRows_disjoint :
    ∀ r ∈ exactRows, ∀ r' ∈ exactRows, r.pattern &&& r'.mask = r'.pattern &&& r.mask → r = r' := by decide

/-- The SYS row meets only the rows of the two literal codes. -/
theorem exactRows_meet_sysRow :
    ∀ r ∈ exactRows, r.pattern &&& sysRow.mask = sysRow.pattern &&& r.mask → r = opcodeRow .cls ∨ r = opcodeRow .ret := by decide

theorem exists_decode_iff_selects {w : Word} : (∃ i, decode w = .ok i) ↔ ∃ r ∈ sysRow :: exactRows, r.selects w = true := by
  constructor
  · rintro ⟨i, hi⟩
    exact ⟨opcodeRow i, opcodeRow_mem i, (encode_of_decode hi).1 ▸ opcodeRow_selects_encode i⟩
  · rintro ⟨r, hr, hsel⟩
    obtain ⟨i, rfl⟩ := exists_opcodeRow_eq hr
    exact exists_decode_of_selects hsel

theorem opcodeRow_selects_of_decode {w : Word} {i : Instr} (h : decode w = .ok i) : (opcodeRow i).selects w = true := by
  obtain ⟨rfl, -⟩ := encode_of_decode h
  exact opcodeRow_selects_encode i

theorem decode_ne_sys_of_selects {w : Word} {nnn : Addr12} {r : OpcodeRow} (hr : r ∈ exactRows) (h : r.selects w = true) :
    decode w ≠ .ok (.sys nnn) := by
  intro hdec
  obtain ⟨hw, hwf⟩ := encode_of_decode hdec
  obtain ⟨hcls, hret⟩ := wellFormed_sys.1 hwf
  have hsys : sysRow.selects w = true := opcodeRow_selects_of_decode hdec
  obtain rfl | rfl := exactRows_meet_sysRow r hr (pattern_and_mask_eq h hsys)
  · exact hcls (hw.trans (selects_FFFF.1 h))
  · exact hret (hw.trans (selects_FFFF.1 h))

/-- Settles O3: a row looks only at the fields the decoder tests, and two of the exact rows differ in a bit both look at. -/
theorem decodeFollowsTheOpcodeMap : Obligations.DecodeFollowsTheOpcodeMap := by
  refine ⟨fun w => ?_, fun w i => opcodeRow_selects_of_decode, ?_, ?_⟩
  · rw [exists_decode_iff_selects, List.exists_mem_cons_iff]
  · rintro w nnn ⟨r, hr, hsel⟩
    exact decode_ne_sys_of_selects hr hsel
  · intro w r hr r' hr' hsel hsel'
    exact exactRows_disjoint r hr r' hr' (pattern_and_mask_eq hsel hsel')

/-! ## The fields as numbers (30_encoding.md R102) -/

/-- Settles O5: a word is put together from its fields, each below the base of its place, so the fields are its digits. -/
theorem fieldsAreTheSlicesOfTheWord : Obligations.FieldsAreTheSlicesOfTheWord := by
  intro w
  have hXY := (toNat_wordXY _ _ _ _).symm.trans (congrArg BitVec.toNat (wordXY_fields w))
  have hXK := (toNat_wordXK _ _ _).symm.trans (congrArg BitVec.toNat (wordXK_fields w))
  have hA := (toNat_wordA _ _).symm.trans (congrArg BitVec.toNat (wordA_fields w))
  have hO := (fieldO w).isLt
  have hX := (fieldX w).isLt
  have hY := (fieldY w).isLt
  have hN := (fieldN w).isLt
  have hKK := (fieldKK w).isLt
  have hNNN := (fieldNNN w).isLt
  omega

/-! ## Words of the spec (95_test_vectors.md S9, S10, T1) -/

/-- Settles O6: each word but 5121 is the encoding of its instruction. -/
theorem specWordsDecodeAsTheSpecSays : Obligations.SpecWordsDecodeAsTheSpecSays :=
  ⟨decode_of_encode rfl rfl, decode_of_encode rfl rfl, decode_of_encode rfl rfl, decode_of_encode rfl rfl, decode_of_encode rfl rfl,
    decode_of_encode rfl rfl, decode_of_encode rfl rfl, decode_of_encode rfl rfl, decode_of_encode rfl rfl, decode_of_encode rfl rfl,
    decode_of_encode rfl rfl, decode_of_encode rfl rfl, decode_of_encode rfl rfl, by decide⟩

namespace Machine

/-! ## The fetched word (30_encoding.md R101) -/

theorem toNat_fetchWord (s : State) : s.fetchWord.toNat = 256 * (s.byte s.pc.toNat).toNat + (s.byte (s.pc.toNat + 1)).toNat :=
  toNat_wordOfBytes _ _

/-- Settles O9: the word is 256 times the byte at pc plus the byte after it. -/
theorem fetchIsBigEndian : Obligations.FetchIsBigEndian := by
  constructor
  · intro s
    have hlo := (s.byte (s.pc.toNat + 1)).isLt
    rw [toNat_fetchWord]
    omega
  · intro s hpc hhi hlo
    simp only [State.fetchWord, hpc]
    exact congrArg₂ wordOfBytes hhi hlo

/-! ## SYS (43_control_flow.md R215) -/

theorem onlyChanges_advance (s : State) : OnlyChanges (· ∈ [.pc]) s s.advance := by
  intro p hp
  cases p with
  | pc => exact absurd (List.mem_singleton.2 rfl) hp
  | _ => rfl

theorem checkSys_nop {cfg : Config} (h : cfg.sysPolicy = .nop) (nnn : Addr12) : checkSys nnn cfg = none := by
  rw [checkSys, h]

theorem checkSys_fault {cfg : Config} (h : cfg.sysPolicy = .fault) (nnn : Addr12) :
    checkSys nnn cfg = some (.decodeFailure (encode (.sys nnn)) (some (.sys nnn))) := by
  rw [checkSys, h]

theorem encode_sys (nnn : Addr12) : encode (.sys nnn) = BitVec.ofNat 16 nnn.toNat := by
  apply BitVec.eq_of_toNat_eq
  have hO : (0x0 : BitVec 4).toNat = 0 := rfl
  have hNNN := nnn.isLt
  rw [encode, toNat_wordA, BitVec.toNat_ofNat, hO]
  omega

/-- Settles O39: the policy decides the one check of SYS, whose effect is the normal advance. -/
theorem sysFollowsItsPolicy : Obligations.SysFollowsItsPolicy := by
  intro s nnn
  constructor
  · intro h
    exact ⟨s.advance, exec_eq_next.2 ⟨checkSys_nop h nnn, rfl⟩, rfl, onlyChanges_advance s⟩
  · intro h
    rw [exec_eq_complete, complete_eq_fault, ← encode_sys]
    exact checkSys_fault h nnn

end Machine

end Sys2Proof
end

section
/-! PROOF. The step and the two engine states: a step runs exactly what the fetched word decodes to and is never refused (40_step_engine.md
R140 to R144), and `WAIT` moves as the transition table says (R148). -/

namespace Sys2Proof.Machine

/-! ## No refusal (40_step_engine.md R144) -/

theorem exec_ne_refused (i : Instr) (s : State) (r : Refusal) : exec i s ≠ .refused r := by
  rw [exec_eq_complete]
  exact complete_ne_refused

theorem decodeAndExecute_ne_refused (w : Word) (s : State) (r : Refusal) : decodeAndExecute w s ≠ .refused r := by
  rw [decodeAndExecute]
  split
  · next i _ => exact exec_ne_refused i s r
  · nofun

theorem step_ne_refused (s : State) (r : Refusal) : step s ≠ .refused r := by
  cases hw : s.wait with
  | awaitingKey x =>
    rw [step_of_awaiting hw]
    nofun
  | ready =>
    rw [step_of_ready hw, runInstruction]
    split
    · nofun
    · exact decodeAndExecute_ne_refused s.fetchWord s r

/-- Settles O13: a wait goes on, a fetch or a decode that fails is a fault, and an instruction only checks and then writes. -/
theorem stepNeverRefuses : Obligations.StepNeverRefuses :=
  ⟨step_ne_refused, exec_ne_refused⟩

/-! ## What a step runs (40_step_engine.md R140 to R143) -/

theorem fetchWord_of_encodeBytes {s : State} {i : Instr}
    (h : [s.byte s.pc.toNat, s.byte (s.pc.toNat + 1)] = encodeBytes i) : s.fetchWord = encode i := by
  obtain ⟨hhi, hlo⟩ : s.byte s.pc.toNat = highByte (encode i) ∧ s.byte (s.pc.toNat + 1) = lowByte (encode i) := by
    simpa [encodeBytes] using h
  rw [State.fetchWord, hhi, hlo, wordOfBytes_highByte_lowByte]

/-- Settles O7: the bytes of a well-formed instruction are fetched as its word, which decodes to it. -/
theorem stepRunsTheDecodedInstruction : Obligations.StepRunsTheDecodedInstruction := by
  intro s i hready hpc
  constructor
  · intro hwf hbytes
    exact step_of_decode hready hpc (decode_of_encode (fetchWord_of_encodeBytes hbytes).symm hwf)
  · exact step_of_decode hready hpc

/-- Settles O10: the engine looks at `WAIT` before anything else. -/
theorem waitingStepDoesNothing : Obligations.WaitingStepDoesNothing :=
  fun _ _ => step_of_awaiting

/-- Settles O12: the fetch stays in the bank, so the decoder's answer decides. -/
theorem undecodableWordFaults : Obligations.UndecodableWordFaults := by
  intro s e hready hpc hdecode
  simp only [step_of_ready hready, runInstruction, checkFetch_eq_none.2 hpc, decodeAndExecute, hdecode]

/-! ## Frames of the host's key event -/

theorem Part.same_trans {p : Part} {s t u : State} (h : p.same s t) (h' : p.same t u) : p.same s u := by
  cases p <;> exact Eq.trans h' h

theorem OnlyChanges.trans {c c' : Part → Prop} {s t u : State} (h : OnlyChanges c s t) (h' : OnlyChanges c' t u) :
    OnlyChanges (fun p => c p ∨ c' p) s u := by
  intro p hp
  obtain ⟨hc, hc'⟩ := not_or.1 hp
  exact Part.same_trans (h p hc) (h' p hc')

theorem OnlyChanges.mono {c c' : Part → Prop} {s t : State} (h : OnlyChanges c s t) (hc : ∀ p, c p → c' p) :
    OnlyChanges c' s t :=
  fun p hp => h p (mt (hc p) hp)

theorem onlyChanges_setKey (s : State) (k : Fin 16) (b : Bool) : OnlyChanges (· = .key k) s (s.setKey k b) := by
  intro p hp
  cases p with
  | key j => exact s.key_setKey_of_ne b fun hj => hp (congrArg Part.key hj)
  | _ => rfl

theorem onlyChanges_setReg (s : State) (r : RegIdx) (b : Byte) : OnlyChanges (· = .reg r) s (s.setReg r b) := by
  intro p hp
  cases p with
  | reg j => exact s.reg_setReg_of_ne b fun hj => hp (congrArg Part.reg hj)
  | _ => rfl

theorem onlyChanges_setWait (s : State) (w : Wait) : OnlyChanges (· = .wait) s (s.setWait w) := by
  intro p hp
  cases p with
  | wait => exact absurd rfl hp
  | _ => rfl

/-! ## The state after a key event (60_exceptions.md R289, R290) -/

/-- The state in which a press of `k` leaves an engine that awaits a key for register `r`. -/
def State.resolved (s : State) (k : Fin 16) (r : RegIdx) : State :=
  ((s.setKey k true).setReg r (BitVec.ofNat 8 k.val)).setWait .ready

theorem State.resolved_wait (s : State) (k : Fin 16) (r : RegIdx) : (s.resolved k r).wait = .ready := rfl

theorem State.resolved_key (s : State) (k : Fin 16) (r : RegIdx) : (s.resolved k r).key k = true :=
  s.key_setKey_self k true

theorem State.toNat_resolved_reg (s : State) (k : Fin 16) (r : RegIdx) : ((s.resolved k r).reg r).toNat = k.val := by
  have hreg : (s.resolved k r).reg r = BitVec.ofNat 8 k.val := State.reg_setReg_self _ r _
  rw [hreg, BitVec.toNat_ofNat]
  exact Nat.mod_eq_of_lt (k.isLt.trans (by decide))

theorem State.onlyChanges_resolved (s : State) (k : Fin 16) (r : RegIdx) :
    OnlyChanges (· ∈ [.key k, .reg r, .wait]) s (s.resolved k r) := by
  refine (((onlyChanges_setKey s k true).trans (onlyChanges_setReg _ r _)).trans (onlyChanges_setWait _ .ready)).mono fun p hp => ?_
  simpa [or_assoc] using hp

theorem deliver_release (s : State) (k : Fin 16) : deliver (.keyEvent k.val false) s = (s.setKey k false, .next ()) := by
  rw [deliver, keyEvent_of_le (Nat.le_of_lt_succ k.isLt), finOfNat_val]
  rfl

theorem deliver_press (s : State) (k : Fin 16) :
    deliver (.keyEvent k.val true) s = (resolveWait k.val (s.setKey k true), .next ()) := by
  rw [deliver, keyEvent_of_le (Nat.le_of_lt_succ k.isLt), finOfNat_val]
  rfl

theorem deliver_press_of_ready {s : State} (h : s.wait = .ready) (k : Fin 16) :
    deliver (.keyEvent k.val true) s = (s.setKey k true, .next ()) := by
  rw [deliver_press, resolveWait_ready (s := s.setKey k true) h]

theorem deliver_press_of_awaiting {s : State} {r : RegIdx} (h : s.wait = .awaitingKey r) (k : Fin 16) :
    deliver (.keyEvent k.val true) s = (s.resolved k r, .next ()) := by
  rw [deliver_press, resolveWait_awaiting (s := s.setKey k true) h, State.resolved]

/-- A key event that names no key faults. -/
theorem keyEvent_of_gt {k : Nat} (h : 15 < k) (pressed : Bool) (s : State) :
    keyEvent k pressed s = .fault (.invalidKeyIndex k none) := by
  rw [keyEvent, checkKey, if_pos h, complete_some]

theorem deliver_keyEvent_of_gt {k : Nat} (h : 15 < k) (pressed : Bool) (s : State) :
    deliver (.keyEvent k pressed) s = (s, .fault (.invalidKeyIndex k none)) := by
  rw [deliver, keyEvent_of_gt h, hostView_fault]

theorem deliver_keyEvent_wait_of_ready {s : State} (h : s.wait = .ready) (k : Nat) (pressed : Bool) :
    (deliver (.keyEvent k pressed) s).1.wait = .ready := by
  by_cases hk : k < 16
  · lift k to Fin 16 using hk
    cases pressed with
    | false => rw [deliver_release]; exact h
    | true => rw [deliver_press_of_ready h]; exact h
  · rw [deliver_keyEvent_of_gt (by omega)]
    exact h

/-! ## The transition table (40_step_engine.md R148) -/

/-- Construction succeeds exactly on an image that fits (70_reset_and_hazards.md R310, R312). -/
theorem construct_eq_next {cfg : Config} {image : List Byte} {s : State} : construct cfg image = .next s ↔
    image.length ≤ maxImage ∧ s = { State.reset with mem := writeBytes [] progBase image, cfg := cfg } := by
  rw [construct]
  split
  · next h => simp [Nat.not_le.2 h]
  · next h => simp [Nat.not_lt.1 h, eq_comm]

theorem execEffect_wait {i : Instr} (s : State) (h : ∀ x, i ≠ .ldVxK x) : (execEffect i s).wait = s.wait := by
  cases i with
  | ldVxK x => exact absurd rfl (h x)
  | _ => rfl

theorem exec_wait {i : Instr} {s t : State} (hi : ∀ x, i ≠ .ldVxK x) (h : exec i s = .next t) : t.wait = s.wait := by
  obtain ⟨-, rfl⟩ := exec_eq_next.1 h
  exact execEffect_wait s hi

/-- The rows from `Ready` for a step that does not fault. -/
theorem step_wait_of_ready {s : State} {i : Instr} (hready : s.wait = .ready) (hpc : s.pc.toNat + 2 ≤ memSize)
    (hdecode : decode s.fetchWord = .ok i) :
    (∀ x, i = .ldVxK x → ∃ t, step s = .next t ∧ t.wait = .awaitingKey x ∧ t.pc = s.pc + 2) ∧
    (∀ t, (∀ x, i ≠ .ldVxK x) → step s = .next t → t.wait = .ready) := by
  rw [step_of_decode hready hpc hdecode]
  constructor
  · rintro x rfl
    exact ⟨(s.setWait (.awaitingKey x)).advance, rfl, rfl, rfl⟩
  · intro t hi hexec
    exact (exec_wait hi hexec).trans hready

/-- Settles O49: each row by the law of its event; only FX0A enters the wait and only a press of a key leaves it. -/
theorem engineStateTransitions : Obligations.EngineStateTransitions := by
  refine ⟨⟨rfl, rfl, ?construct⟩, ?readyStep, ?fault, ?readyEvent, ?awaiting⟩
  case construct =>
    intro cfg image s h
    obtain ⟨-, rfl⟩ := construct_eq_next.1 h
    exact ⟨rfl, rfl⟩
  case readyStep => exact fun _ _ => step_wait_of_ready
  case fault => exact fun _ f hf => stepRequest_fst_of_stopped (.inl ⟨f, hf⟩)
  case readyEvent => exact fun _ k pressed hready => ⟨hready, deliver_keyEvent_wait_of_ready hready k pressed⟩
  case awaiting =>
    intro s r hwait
    refine ⟨stepRequest_fst_of_stopped (.inr ⟨r, hwait⟩), hwait, toNat_countDown s.dt, toNat_countDown s.st, ?release, ?badIndex, ?press⟩
    case release =>
      intro k
      rw [deliver_release]
      exact ⟨(onlyChanges_setKey s k false).mono fun _ => List.mem_singleton.2, s.key_setKey_self k false⟩
    case badIndex =>
      intro k pressed hk
      rw [deliver_keyEvent_of_gt hk]
    case press =>
      intro k
      rw [deliver_press_of_awaiting hwait]
      exact ⟨s.resolved_wait k r, s.onlyChanges_resolved k r, s.toNat_resolved_reg k r, s.resolved_key k r⟩

end Sys2Proof.Machine
end

section
/-! PROOF. The index-register instructions (41_index_memory.md): each leaves a new `I` and the normal advance. -/

namespace Sys2Proof.Machine

theorem onlyChanges_setIndex (s : State) (v : Word) : OnlyChanges (· = .index) s (s.setIndex v) := by
  intro p hp
  cases p with
  | index => exact absurd rfl hp
  | _ => rfl

theorem onlyChanges_setIndex_advance (s : State) (v : Word) : OnlyChanges (· ∈ [.index, .pc]) s (s.setIndex v).advance := by
  refine ((onlyChanges_setIndex s v).trans (onlyChanges_advance _)).mono fun p hp => ?_
  simpa using hp

/-! ## ANNN (41_index_memory.md R160) -/

theorem toNat_encode_ldI (nnn : Addr12) : (encode (.ldI nnn)).toNat = 0xA000 + nnn.toNat :=
  toNat_wordA 0xA nnn

/-- Settles O17: ANNN checks nothing, its effect is the new index and the normal advance, and an address of 12 bits fits the index. -/
theorem loadIndexSetsI : Obligations.LoadIndexSetsI := by
  intro s nnn
  have hindex : (nnn.setWidth 16).toNat = nnn.toNat := BitVec.toNat_setWidth_of_le (by decide)
  exact ⟨(s.setIndex (nnn.setWidth 16)).advance, exec_eq_next.2 ⟨rfl, rfl⟩, hindex, rfl, onlyChanges_setIndex_advance s _,
    toNat_encode_ldI nnn⟩

end Sys2Proof.Machine
end

section
/-! PROOF. The register arithmetic and logic instructions (42_alu.md): those without a flag leave one new register value and the normal
advance. -/

namespace Sys2Proof.Machine

theorem onlyChanges_setReg_advance (s : State) (x : RegIdx) (b : Byte) :
    OnlyChanges (· ∈ [.reg x, .pc]) s (s.setReg x b).advance := by
  refine ((onlyChanges_setReg s x b).trans (onlyChanges_advance _)).mono fun p hp => ?_
  simpa using hp

/-- An instruction that checks nothing and whose effect is one register write and the normal advance: its completion and its frame. -/
theorem exec_of_setReg_advance {i : Instr} {s : State} {x : RegIdx} {b : Byte} (hcheck : execCheck i s = none)
    (heffect : execEffect i s = (s.setReg x b).advance) :
    ∃ t, exec i s = .next t ∧ t.reg x = b ∧ t.pc = s.pc + 2 ∧ OnlyChanges (· ∈ [.reg x, .pc]) s t :=
  ⟨(s.setReg x b).advance, exec_eq_next.2 ⟨hcheck, heffect.symm⟩, s.reg_setReg_self x b, rfl, onlyChanges_setReg_advance s x b⟩

/-! ## 6XKK, 7XKK and 8XY0 (42_alu.md R180 to R182) -/

theorem toNat_encode_ldByte (x : RegIdx) (kk : Byte) : (encode (.ldByte x kk)).toNat = 0x6000 + 256 * x.val + kk.toNat :=
  toNat_wordXK 0x6 x kk

theorem toNat_encode_addByte (x : RegIdx) (kk : Byte) : (encode (.addByte x kk)).toNat = 0x7000 + 256 * x.val + kk.toNat :=
  toNat_wordXK 0x7 x kk

theorem toNat_encode_ldReg (x y : RegIdx) : (encode (.ldReg x y)).toNat = 0x8000 + 256 * x.val + 16 * y.val :=
  toNat_wordXY 0x8 x y 0x0

/-- Settles O26: the three are register writes with the normal advance, and the sum of two bytes wraps at 256. -/
theorem plainRegisterWrites : Obligations.PlainRegisterWrites := by
  intro s x y kk
  refine ⟨exec_of_setReg_advance rfl rfl, ?sum, exec_of_setReg_advance rfl rfl, toNat_encode_ldByte x kk,
    toNat_encode_addByte x kk, toNat_encode_ldReg x y⟩
  case sum =>
    obtain ⟨t, hexec, hreg, hpc, hframe⟩ := exec_of_setReg_advance (i := .addByte x kk) (s := s) rfl rfl
    exact ⟨t, hexec, hreg ▸ toNat_addBytes (s.reg x) kk, hpc, hframe⟩

end Sys2Proof.Machine
end

section
/-! PROOF. Control flow (43_control_flow.md): the register skips move nothing but `pc`, and the return drops the top entry and resumes
after it. -/

namespace Sys2Proof.Machine

/-! ## 3XKK, 4XKK, 5XY0 and 9XY0 (43_control_flow.md R216 to R219) -/

theorem onlyChanges_skipIf (s : State) (c : Bool) : OnlyChanges (· ∈ [.pc]) s (s.skipIf c) := by
  intro p hp
  cases p with
  | pc => exact absurd (List.mem_singleton.2 rfl) hp
  | _ => rfl

/-- An instruction whose checks pass and whose effect is a skip on the condition `P`: its completion and its frame. -/
theorem exec_of_skipIf {i : Instr} {s : State} {c : Bool} {P : Prop} [Decidable P] (hcheck : execCheck i s = none)
    (heffect : execEffect i s = s.skipIf c) (hc : c = true ↔ P) :
    ∃ t, exec i s = .next t ∧ t.pc = (if P then s.pc + 4 else s.pc + 2) ∧ OnlyChanges (· ∈ [.pc]) s t := by
  refine ⟨s.skipIf c, exec_eq_next.2 ⟨hcheck, heffect.symm⟩, ?pc, onlyChanges_skipIf s c⟩
  case pc => rw [State.skipIf_pc, if_congr hc rfl rfl]

theorem toNat_encode_seByte (x : RegIdx) (kk : Byte) : (encode (.seByte x kk)).toNat = 0x3000 + 256 * x.val + kk.toNat :=
  toNat_wordXK 0x3 x kk

theorem toNat_encode_sneByte (x : RegIdx) (kk : Byte) : (encode (.sneByte x kk)).toNat = 0x4000 + 256 * x.val + kk.toNat :=
  toNat_wordXK 0x4 x kk

theorem toNat_encode_seReg (x y : RegIdx) : (encode (.seReg x y)).toNat = 0x5000 + 256 * x.val + 16 * y.val :=
  toNat_wordXY 0x5 x y 0x0

theorem toNat_encode_sneReg (x y : RegIdx) : (encode (.sneReg x y)).toNat = 0x9000 + 256 * x.val + 16 * y.val :=
  toNat_wordXY 0x9 x y 0x0

/-- Settles O38: none of the four checks anything, and each is a skip whose Boolean test decides its condition. -/
theorem registerSkipsDoubleAdvance : Obligations.RegisterSkipsDoubleAdvance := by
  intro s x y kk
  exact ⟨exec_of_skipIf rfl rfl beq_iff_eq, exec_of_skipIf rfl rfl bne_iff_ne, exec_of_skipIf rfl rfl beq_iff_eq,
    exec_of_skipIf rfl rfl bne_iff_ne, toNat_encode_seByte x kk, toNat_encode_sneByte x kk, toNat_encode_seReg x y,
    toNat_encode_sneReg x y⟩

/-! ## 00EE (43_control_flow.md R213) -/

/-- The return keeps every stack slot, the popped one too (10_state.md R43). -/
theorem onlyChanges_pop_resumeAfter (s : State) (a : Word) : OnlyChanges (· ∈ [.sp, .pc]) s (s.pop.resumeAfter a) := by
  intro p hp
  cases p with
  | sp | pc => exact absurd (by simp) hp
  | _ => rfl

theorem checkPop_zero (ins : Instr) : checkPop ins 0 = some (.stackUnderflow (some ins)) := rfl

/-- Settles O36: the stack pointer decides the one check of RET, whose effect is to drop the top entry and resume after it. -/
theorem returnResumesAfterTheCall : Obligations.ReturnResumesAfterTheCall := by
  intro s
  refine ⟨?nonempty, ?empty, rfl⟩
  case nonempty =>
    intro hsp
    have hdrop : (s.sp - 1).val + 1 = s.sp.val := by
      rw [sp_sub_one hsp]
      exact Nat.sub_add_cancel (Nat.pos_of_ne_zero (Fin.val_ne_zero_iff.2 hsp))
    exact ⟨s.pop.resumeAfter s.top, exec_eq_next.2 ⟨checkPop_eq_none.2 hsp, rfl⟩, congrArg (· + 2) s.top_eq_slot, hdrop,
      onlyChanges_pop_resumeAfter s s.top⟩
  case empty =>
    intro hsp
    rw [exec_eq_complete, complete_eq_fault, execCheck, hsp]
    exact checkPop_zero .ret

end Sys2Proof.Machine
end

section
/-! PROOF. The timer moves (44_timer_key.md section 1): each writes one byte, to a register or to a timer, and advances normally. -/

namespace Sys2Proof.Machine

theorem onlyChanges_setDt (s : State) (b : Byte) : OnlyChanges (· = .delay) s (s.setDt b) := by
  intro p hp
  cases p with
  | delay => exact absurd rfl hp
  | _ => rfl

theorem onlyChanges_setSt (s : State) (b : Byte) : OnlyChanges (· = .sound) s (s.setSt b) := by
  intro p hp
  cases p with
  | sound => exact absurd rfl hp
  | _ => rfl

theorem onlyChanges_setDt_advance (s : State) (b : Byte) : OnlyChanges (· ∈ [.delay, .pc]) s (s.setDt b).advance := by
  refine ((onlyChanges_setDt s b).trans (onlyChanges_advance _)).mono fun p hp => ?_
  simpa using hp

theorem onlyChanges_setSt_advance (s : State) (b : Byte) : OnlyChanges (· ∈ [.sound, .pc]) s (s.setSt b).advance := by
  refine ((onlyChanges_setSt s b).trans (onlyChanges_advance _)).mono fun p hp => ?_
  simpa using hp

/-! ## FX07, FX15 and FX18 (44_timer_key.md R230 to R232) -/

/-- The words of group F, with the selector byte beside the group's number as the opcode map writes them (`0xF007`, ...). -/
theorem toNat_wordXs_F (x : RegIdx) (kk : Byte) : (wordXs 0xF x kk).toNat = 0xF000 + kk.toNat + 256 * x.val :=
  (toNat_wordXs 0xF x kk).trans (Nat.add_right_comm _ _ _)

theorem toNat_encode_ldVxDt (x : RegIdx) : (encode (.ldVxDt x)).toNat = 0xF007 + 256 * x.val :=
  toNat_wordXs_F x 0x07

theorem toNat_encode_ldDtVx (x : RegIdx) : (encode (.ldDtVx x)).toNat = 0xF015 + 256 * x.val :=
  toNat_wordXs_F x 0x15

theorem toNat_encode_ldStVx (x : RegIdx) : (encode (.ldStVx x)).toNat = 0xF018 + 256 * x.val :=
  toNat_wordXs_F x 0x18

/-- Settles O40: none of the three checks anything; FX07 is a register write, FX15 and FX18 a timer write, each with the normal advance. -/
theorem timerInstructionsMoveOneByte : Obligations.TimerInstructionsMoveOneByte := by
  intro s x
  refine ⟨exec_of_setReg_advance rfl rfl, ?delay, ?sound, toNat_encode_ldVxDt x, toNat_encode_ldDtVx x, toNat_encode_ldStVx x⟩
  case delay => exact ⟨(s.setDt (s.reg x)).advance, exec_eq_next.2 ⟨rfl, rfl⟩, rfl, rfl, onlyChanges_setDt_advance s _⟩
  case sound => exact ⟨(s.setSt (s.reg x)).advance, exec_eq_next.2 ⟨rfl, rfl⟩, rfl, rfl, onlyChanges_setSt_advance s _⟩

end Sys2Proof.Machine
end

section
/-! PROOF. The display instructions (45_display.md): the clear darkens every pixel (R251), and the draw, read at the state's own pixels and
sprite bits, undoes itself (R254). -/

namespace Sys2Proof.Machine

theorem onlyChanges_setDisplay (s : State) (d : Display) : OnlyChanges (fun p => ∃ r c, p = .pixel r c) s (s.setDisplay d) := by
  intro p hp
  cases p with
  | pixel r c => exact absurd ⟨r, c, rfl⟩ hp
  | _ => rfl

/-! ## 00E0 (45_display.md R251) -/

/-- Settles O43: CLS checks nothing, and its effect is the dark display and the normal advance. -/
theorem clearDarkensEveryPixel : Obligations.ClearDarkensEveryPixel := by
  intro s
  refine ⟨(s.setDisplay darkDisplay).advance, exec_eq_next.2 ⟨rfl, rfl⟩, readPixel_darkDisplay, rfl, ?frame, rfl⟩
  case frame =>
    refine ((onlyChanges_setDisplay s darkDisplay).trans (onlyChanges_advance _)).mono fun p hp => ?_
    exact hp.symm.imp_left List.mem_singleton.1

/-! ## DXYN on the pixels and the flag (45_display.md R252 to R255) -/

theorem State.covers_iff {s : State} {x y : RegIdx} {n : Nibble} {row col : Nat} {r : Fin 32} {c : Fin 64} :
    s.covers x y n row col r c ↔
      row < n.val ∧ col < 8 ∧ r = rowOf (s.reg y).toNat row ∧ c = colOf (s.reg x).toNat col := by
  simp only [State.covers, Fin.ext_iff, rowOf, colOf]

theorem State.covers_rowOf_colOf (s : State) (x y : RegIdx) {n : Nibble} {row col : Nat} (hrow : row < n.val) (hcol : col < 8) :
    s.covers x y n row col (rowOf (s.reg y).toNat row) (colOf (s.reg x).toNat col) :=
  State.covers_iff.2 ⟨hrow, hcol, rfl, rfl⟩

/-- Which pixels a draw covers depends on the two coordinates only. -/
theorem State.covers_congr {s t : State} {x y : RegIdx} (hx : t.reg x = s.reg x) (hy : t.reg y = s.reg y) (n : Nibble) (row col : Nat)
    (r : Fin 32) (c : Fin 64) : t.covers x y n row col r c ↔ s.covers x y n row col r c := by
  simp only [State.covers, hx, hy]

/-- A nibble counts fewer rows than the display has, so the rows of a sprite stay distinct (45_display.md R258). -/
theorem nibble_le_dispH (n : Nibble) : n.val ≤ dispH :=
  n.isLt.le.trans (by decide)

theorem pixel_execEffect_drw_of_covers {s : State} {x y : RegIdx} {n : Nibble} {row col : Nat} {r : Fin 32} {c : Fin 64}
    (h : s.covers x y n row col r c) : (execEffect (.drw x y n) s).pixel r c = (s.pixel r c ^^ s.spriteOn row col) := by
  obtain ⟨hrow, hcol, rfl, rfl⟩ := State.covers_iff.1 h
  obtain ⟨hit, -, -⟩ := drawSprite_spec s.mem (s.effectiveAddress 0) (s.reg x).toNat (s.reg y).toNat n.val s.display (nibble_le_dispH n)
  exact hit row col hrow hcol

theorem pixel_execEffect_drw_of_not_covers {s : State} {x y : RegIdx} {n : Nibble} {r : Fin 32} {c : Fin 64}
    (h : ∀ row col, ¬ s.covers x y n row col r c) : (execEffect (.drw x y n) s).pixel r c = s.pixel r c := by
  obtain ⟨-, miss, -⟩ := drawSprite_spec s.mem (s.effectiveAddress 0) (s.reg x).toNat (s.reg y).toNat n.val s.display (nibble_le_dispH n)
  exact miss r c fun row col hrow hcol ⟨hr, hc⟩ => h row col (State.covers_iff.2 ⟨hrow, hcol, hr, hc⟩)

/-- The rasterizer's flag: some 1 bit of the sprite falls on a lit pixel (45_display.md R254). -/
theorem drawn_collision_iff {s : State} {x y : RegIdx} {n : Nibble} : (s.drawn x y n).collision = true ↔
    ∃ row col r c, s.covers x y n row col r c ∧ s.pixel r c = true ∧ s.spriteOn row col = true := by
  obtain ⟨-, -, flag⟩ :=
    drawSprite_spec s.mem (s.effectiveAddress 0) (s.reg x).toNat (s.reg y).toNat n.val s.display (nibble_le_dispH n)
  refine flag.trans ⟨?mp, ?mpr⟩
  case mp =>
    rintro ⟨row, col, hrow, hcol, hlit, hon⟩
    exact ⟨row, col, _, _, s.covers_rowOf_colOf x y hrow hcol, hlit, hon⟩
  case mpr =>
    rintro ⟨row, col, r, c, hcov, hlit, hon⟩
    obtain ⟨hrow, hcol, rfl, rfl⟩ := State.covers_iff.1 hcov
    exact ⟨row, col, hrow, hcol, hlit, hon⟩

/-- VF receives the flag whatever X and Y are (45_display.md R252). -/
theorem execEffect_drw_reg_vf (s : State) (x y : RegIdx) (n : Nibble) :
    (execEffect (.drw x y n) s).reg vf = flagByte (s.drawn x y n).collision :=
  State.reg_setReg_self _ vf _

/-- A draw leaves `I` and the bank, so a second draw reads the same sprite (41_index_memory.md R166, D14). -/
theorem execEffect_drw_spriteOn (s : State) (x y : RegIdx) (n : Nibble) (row col : Nat) :
    (execEffect (.drw x y n) s).spriteOn row col = s.spriteOn row col := rfl

/-! ## Drawing twice (45_display.md R254, 95_test_vectors.md S6) -/

section
variable {s : State} {x y : RegIdx} {n : Nibble} (hx : (execEffect (.drw x y n) s).reg x = s.reg x)
  (hy : (execEffect (.drw x y n) s).reg y = s.reg y)
include hx hy

/-- A covered pixel is XORed twice with one and the same sprite bit; any other is left alone twice. -/
theorem pixel_drw_drw (r : Fin 32) (c : Fin 64) :
    (execEffect (.drw x y n) (execEffect (.drw x y n) s)).pixel r c = s.pixel r c := by
  by_cases h : ∃ row col, s.covers x y n row col r c
  · obtain ⟨row, col, hcov⟩ := h
    have hcov' := (State.covers_congr hx hy n row col r c).2 hcov
    calc (execEffect (.drw x y n) (execEffect (.drw x y n) s)).pixel r c
        = ((s.pixel r c ^^ s.spriteOn row col) ^^ s.spriteOn row col) := by
          rw [pixel_execEffect_drw_of_covers hcov', pixel_execEffect_drw_of_covers hcov, execEffect_drw_spriteOn]
      _ = s.pixel r c := by rw [Bool.xor_assoc, Bool.xor_self, Bool.xor_false]
  · have hmiss : ∀ row col, ¬ s.covers x y n row col r c := fun row col hcov => h ⟨row, col, hcov⟩
    have hmiss' := fun row col => mt (State.covers_congr hx hy n row col r c).1 (hmiss row col)
    rw [pixel_execEffect_drw_of_not_covers hmiss', pixel_execEffect_drw_of_not_covers hmiss]

/-- A 1 bit drawn on a dark display lights its pixel, and drawn again collides with it. -/
theorem drawn_drw_collision_of_dark {row col : Nat} (hdark : ∀ r c, s.pixel r c = false) (hrow : row < n.val) (hcol : col < 8)
    (hon : s.spriteOn row col = true) : ((execEffect (.drw x y n) s).drawn x y n).collision = true := by
  have hcov := s.covers_rowOf_colOf x y hrow hcol
  refine drawn_collision_iff.2 ⟨row, col, _, _, (State.covers_congr hx hy n row col _ _).2 hcov, ?lit, hon⟩
  case lit => rw [pixel_execEffect_drw_of_covers hcov, hdark, hon, Bool.false_xor]

end

theorem drawn_collision_of_dark {s : State} (x y : RegIdx) (n : Nibble) (hdark : ∀ r c, s.pixel r c = false) :
    (s.drawn x y n).collision = false := by
  rw [Bool.eq_false_iff, Ne, drawn_collision_iff]
  rintro ⟨row, col, r, c, -, hlit, -⟩
  exact Bool.false_ne_true ((hdark r c).symm.trans hlit)

/-- Settles O46: both draws cover the same pixels with the same sprite bits, so the second undoes the first; on a dark display the first
meets no lit pixel and the second meets those the first lit. -/
theorem drawingTwiceErases : Obligations.DrawingTwiceErases := by
  intro s t u x y n hfirst hsecond hx hy
  obtain ⟨-, rfl⟩ := exec_eq_next.1 hfirst
  obtain ⟨-, rfl⟩ := exec_eq_next.1 hsecond
  refine ⟨pixel_drw_drw hx hy, ?flags⟩
  case flags =>
    rintro hdark ⟨row, col, hrow, hcol, hon⟩
    rw [execEffect_drw_reg_vf, execEffect_drw_reg_vf, drawn_collision_of_dark x y n hdark,
      drawn_drw_collision_of_dark hx hy hdark hrow hcol hon]
    exact ⟨rfl, rfl⟩

end Sys2Proof.Machine
end

section
/-! PROOF. The host's two ticks (60_exceptions.md section 4): the timer tick is two timer writes (R288), and the batch tick takes its
steps one at a time and then ticks the timers once (R292). -/

namespace Sys2Proof.Machine

/-! ## The timer tick (60_exceptions.md R288) -/

theorem onlyChanges_timerTick (s : State) : OnlyChanges (· ∈ [.delay, .sound]) s (timerTick s) := by
  refine ((onlyChanges_setDt s _).trans (onlyChanges_setSt _ _)).mono fun p hp => ?_
  simpa using hp

/-- Settles O47: a tick counts down the two timers and writes nothing else, and the host's event is that tick. -/
theorem timerTickSaturates : Obligations.TimerTickSaturates :=
  fun s => ⟨toNat_countDown s.dt, toNat_countDown s.st, onlyChanges_timerTick s, rfl⟩

/-! ## The steps of a batch (60_exceptions.md R292) -/

theorem batchSteps_zero (s : State) : batchSteps 0 s = (s, .next ()) := rfl

theorem batchSteps_of_awaiting {s : State} {r : RegIdx} (h : s.wait = .awaitingKey r) (n : Nat) : batchSteps n s = (s, .next ()) := by
  cases n with
  | zero => exact batchSteps_zero s
  | succ n => simp only [batchSteps, h]

theorem batchSteps_succ_of_fault {s : State} {f : Fault} (h : step s = .fault f) (n : Nat) :
    batchSteps (n + 1) s = (s, .fault f) := by
  obtain ⟨hready, -⟩ := step_cases_fault h
  simp only [batchSteps, hready, h]

theorem batchSteps_succ_of_next {s t : State} (hready : s.wait = .ready) (h : step s = .next t) (n : Nat) :
    batchSteps (n + 1) s = batchSteps n t := by
  simp only [batchSteps, hready, h]

/-! ## The batch tick (60_exceptions.md R292, D18) -/

/-- The timers are ticked once, from the state in which the batch stopped, whatever stopped it. -/
theorem batchTick_of_batchSteps {n : Nat} {s t : State} {o : Host.Outcome Unit Fault Refusal} (h : batchSteps n s = (t, o)) :
    batchTick n s = (timerTick t, o) := by
  rw [batchTick, h]

theorem batchTick_congr {n m : Nat} {s t : State} (h : batchSteps n s = batchSteps m t) : batchTick n s = batchTick m t := by
  rw [batchTick, batchTick, h]

/-- Settles O50: a batch that stops at once ticks the state it was given; one that steps first is the batch of the rest. -/
theorem batchTickIsStepsThenOneTick : Obligations.BatchTickIsStepsThenOneTick := by
  intro s n
  refine ⟨batchTick_of_batchSteps (batchSteps_zero s), ?awaiting, ?fault, ?next⟩
  case awaiting => exact fun r hwait => batchTick_of_batchSteps (batchSteps_of_awaiting hwait n)
  case fault => exact fun f hf => batchTick_of_batchSteps (batchSteps_succ_of_fault hf n)
  case next => exact fun t hready ht => batchTick_congr (batchSteps_succ_of_next hready ht n)

end Sys2Proof.Machine
end

section
/-! PROOF. A fault repeats (60_exceptions.md R280, R283): what a step checks is neither a timer nor a key, and those are all that the host
can change in a state whose step faults. -/

namespace Sys2Proof.Machine

/-! ## What raises a fault (40_step_engine.md R142 to R144) -/

theorem exec_eq_fault {i : Instr} {s : State} {f : Fault} : exec i s = .fault f ↔ execCheck i s = some f := by
  rw [exec_eq_complete, complete_eq_fault]

theorem step_of_checkFetch {s : State} {f : Fault} (hready : s.wait = .ready) (hfetch : checkFetch s = some f) :
    step s = .fault f := by
  simp only [step_of_ready hready, runInstruction, hfetch]

/-- A state that fetches the same word from the same address and passes or fails the same checks faults the same way. -/
theorem step_eq_fault_of_checks {s t : State} {f : Fault} (hwait : t.wait = s.wait) (hpc : t.pc = s.pc)
    (hword : t.fetchWord = s.fetchWord) (hcheck : ∀ i, execCheck i t = execCheck i s) (h : step s = .fault f) :
    step t = .fault f := by
  obtain ⟨hready, hfetch | ⟨hbank, ⟨e, hdecode, rfl⟩ | ⟨i, hdecode, hexec⟩⟩⟩ := step_cases_fault h
  · exact step_of_checkFetch (hwait.trans hready) (by rw [checkFetch, hpc]; exact hfetch)
  · rw [← hword] at hdecode ⊢
    exact undecodableWordFaults t e (hwait.trans hready) (hpc ▸ hbank) hdecode
  · rw [step_of_decode (hwait.trans hready) (hpc ▸ hbank) (hword ▸ hdecode), exec_eq_fault, hcheck]
    exact exec_eq_fault.1 hexec

/-! ## What no check reads -/

theorem execCheck_timerTick (i : Instr) (s : State) : execCheck i (timerTick s) = execCheck i s := by
  cases i <;> rfl

theorem execCheck_setKey (i : Instr) (s : State) (k : Fin 16) (b : Bool) : execCheck i (s.setKey k b) = execCheck i s := by
  cases i <;> rfl

theorem step_timerTick_of_fault {s : State} {f : Fault} (h : step s = .fault f) : step (timerTick s) = .fault f :=
  step_eq_fault_of_checks (s := s) rfl rfl rfl (fun i => execCheck_timerTick i s) h

theorem step_setKey_of_fault {s : State} {f : Fault} (h : step s = .fault f) (k : Fin 16) (b : Bool) :
    step (s.setKey k b) = .fault f :=
  step_eq_fault_of_checks (s := s) rfl rfl rfl (fun i => execCheck_setKey i s k b) h

/-! ## Events from a state whose step faults -/

theorem deliver_keyEvent_of_ready {s : State} (h : s.wait = .ready) (k : Fin 16) (pressed : Bool) :
    deliver (.keyEvent k.val pressed) s = (s.setKey k pressed, .next ()) := by
  cases pressed with
  | false => exact deliver_release s k
  | true => exact deliver_press_of_ready h k

theorem batchSteps_fst_of_fault {s : State} {f : Fault} (h : step s = .fault f) (n : Nat) : (batchSteps n s).1 = s := by
  cases n with
  | zero => rfl
  | succ n => rw [batchSteps_succ_of_fault h]

theorem step_deliver_of_fault {s : State} {f : Fault} (h : step s = .fault f) (e : HostEvent) :
    step (deliver e s).1 = .fault f := by
  cases e with
  | stepRequest => rwa [deliver, stepRequest_fst_of_stopped (.inl ⟨f, h⟩)]
  | timerTick => exact step_timerTick_of_fault h
  | keyEvent k pressed =>
    by_cases hk : k < 16
    · lift k to Fin 16 using hk
      rw [deliver_keyEvent_of_ready (step_cases_fault h).1]
      exact step_setKey_of_fault h k pressed
    · rwa [deliver_keyEvent_of_gt (by omega)]
  | batchTick n =>
    rw [deliver, batchTick, batchSteps_fst_of_fault h]
    exact step_timerTick_of_fault h

/-- A property that every host event keeps holds after any sequence of them. -/
theorem runEvents_keeps {P : State → Prop} (hdeliver : ∀ s e, P s → P (deliver e s).1) (es : List HostEvent) (s : State)
    (hs : P s) : P (runEvents es s) := by
  induction es generalizing s with
  | nil => exact hs
  | cons e es ih => exact ih _ (hdeliver s e hs)

/-- Settles O56: that the next step faults with `f` is a property every host event keeps. -/
theorem aFaultRepeatsForEver : Obligations.AFaultRepeatsForEver :=
  fun s f es h => runEvents_keeps (P := fun t => step t = .fault f) (fun _ e ht => step_deliver_of_fault ht e) es s h

end Sys2Proof.Machine
end

section
/-! PROOF. The invariant of the states a machine can reach (10_state.md R36, 70_reset_and_hazards.md R318): construction meets it, and
every step and every host event keeps it. -/

namespace Sys2Proof.Machine

/-! ## Program counters (43_control_flow.md R210, R213) -/

/-- What the invariant says of the program counter. -/
def programCounterOk (cfg : Config) (a : Word) : Prop :=
  a.toNat ≤ 0x1001 ∧ (cfg.strictAlign = true → a.toNat % 2 = 0)

/-- The address an instruction is fetched from is one a CALL may push. -/
theorem State.Inv.returnAddressOk_pc {s : State} (h : s.Inv) (hfetch : s.pc.toNat + 2 ≤ memSize) : returnAddressOk s.cfg s.pc :=
  ⟨Nat.le_of_add_le_add_right hfetch, h.pc_even⟩

/-- From a fetched address neither the normal advance nor a skip leaves the bound, and both keep the parity. -/
theorem programCounterOk_add {cfg : Config} {a : Word} (h : returnAddressOk cfg a) :
    programCounterOk cfg (a + 2) ∧ programCounterOk cfg (a + 4) := by
  obtain ⟨hle, heven⟩ := h
  have h2 : (a + 2).toNat = a.toNat + 2 := by bv_omega
  have h4 : (a + 4).toNat = a.toNat + 4 := by bv_omega
  refine ⟨⟨by omega, fun hs => ?_⟩, ⟨by omega, fun hs => ?_⟩⟩
  · have := heven hs; omega
  · have := heven hs; omega

theorem programCounterOk_skipIf {s : State} (h : returnAddressOk s.cfg s.pc) (c : Bool) :
    programCounterOk s.cfg (s.skipIf c).pc := by
  cases c with
  | false => exact (programCounterOk_add h).1
  | true => exact (programCounterOk_add h).2

/-- A target that passes its check is a program counter of the invariant. -/
theorem programCounterOk_jumpTo {ins : Instr} {cfg : Config} {t : Nat} (s : State) (h : checkTarget ins cfg t = none) :
    programCounterOk cfg (s.jumpTo t).pc := by
  obtain ⟨-, hhi, heven⟩ := checkTarget_eq_none.1 h
  rw [programCounterOk, toNat_jumpTo_pc s h]
  exact ⟨hhi.trans (by decide), heven⟩

/-! ## What an instruction leaves of the invariant -/

theorem execEffect_cfg (i : Instr) (s : State) : (execEffect i s).cfg = s.cfg := by
  cases i with
  | ldVxMem x => simp [execEffect]
  | _ => rfl

theorem execEffect_mem_wf {i : Instr} {s : State} (hcheck : execCheck i s = none) (h : s.mem.wf = true) :
    (execEffect i s).mem.wf = true := by
  cases i with
  | ldB x =>
    obtain ⟨hbank, -⟩ := (checkStore_eq_none (by decide)).1 hcheck
    exact writeBytes_wf _ _ _ hbank h
  | ldMemVx x =>
    obtain ⟨hbank, -⟩ := (checkStore_eq_none (Nat.succ_ne_zero x.val)).1 hcheck
    exact writeBytes_wf _ _ _ ((s.spillBytes_length x).symm ▸ hbank) h
  | ldVxMem x => simpa [execEffect] using h
  | _ => exact h

theorem execEffect_programCounterOk {i : Instr} {s : State} (hcheck : execCheck i s = none) (h : s.Inv)
    (hpc : returnAddressOk s.cfg s.pc) : programCounterOk s.cfg (execEffect i s).pc := by
  cases i with
  | seByte | sneByte | seReg | sneReg | skp | sknp => exact programCounterOk_skipIf hpc _
  | jp nnn => exact programCounterOk_jumpTo s hcheck
  | jpV0 nnn => exact programCounterOk_jumpTo s hcheck
  | call nnn =>
    obtain ⟨-, htarget⟩ := Option.or_eq_none_iff.1 hcheck
    exact programCounterOk_jumpTo _ htarget
  | ret =>
    have hsp : s.sp ≠ 0 := checkPop_eq_none.1 hcheck
    have htop : returnAddressOk s.cfg s.top := h.slots_ok s.sp (Nat.pos_of_ne_zero (Fin.val_ne_zero_iff.2 hsp)) le_rfl
    exact (programCounterOk_add htop).1
  | ldVxMem x => simpa [execEffect] using (programCounterOk_add hpc).1
  | _ => exact (programCounterOk_add hpc).1

theorem execEffect_slots_ok {i : Instr} {s : State} (hcheck : execCheck i s = none) (h : s.Inv)
    (hpc : returnAddressOk s.cfg s.pc) (k : Fin 16) (hk : 1 ≤ k.val) (hlive : k.val ≤ (execEffect i s).sp.val) :
    returnAddressOk s.cfg ((execEffect i s).slot k) := by
  cases i with
  | call nnn =>
    obtain ⟨hpush, -⟩ := Option.or_eq_none_iff.1 hcheck
    have hlive' : k.val ≤ s.sp.val + 1 := sp_add_one (checkPush_eq_none.1 hpush) ▸ hlive
    rw [show (execEffect (.call nnn) s).slot k = (s.push s.pc).slot k from rfl, State.slot_push]
    split
    · exact hpc
    · next hne =>
      have : k.val ≠ s.sp.val + 1 := fun e => hne (Fin.ext (e.trans (sp_add_one (checkPush_eq_none.1 hpush)).symm))
      exact h.slots_ok k hk (by omega)
  | ret =>
    have hlive' : k.val ≤ s.sp.val - 1 := sp_sub_one (checkPop_eq_none.1 hcheck) ▸ hlive
    exact h.slots_ok k hk (by omega)
  | ldVxMem x => simpa [execEffect] using h.slots_ok k hk (by simpa [execEffect] using hlive)
  | _ => exact h.slots_ok k hk hlive

/-- An instruction that was fetched and goes on keeps the invariant. -/
theorem State.Inv.exec {i : Instr} {s t : State} (h : s.Inv) (hfetch : s.pc.toNat + 2 ≤ memSize) (hexec : exec i s = .next t) :
    t.Inv := by
  obtain ⟨hcheck, rfl⟩ := exec_eq_next.1 hexec
  have hpc := h.returnAddressOk_pc hfetch
  obtain ⟨hbound, heven⟩ := execEffect_programCounterOk hcheck h hpc
  refine ⟨execEffect_mem_wf hcheck h.mem_wf, hbound, ?even, ?slots⟩
  case even => rwa [execEffect_cfg]
  case slots => rw [execEffect_cfg]; exact execEffect_slots_ok hcheck h hpc

theorem State.Inv.step {s t : State} (h : s.Inv) (hstep : step s = .next t) : t.Inv := by
  obtain ⟨rfl, -⟩ | ⟨-, hfetch, i, -, hexec⟩ := step_cases_next hstep
  · exact h
  · exact h.exec hfetch hexec

/-- Settles O59: a wait changes nothing, and a fetched instruction moves `pc` and the live stack slots by lawful addresses only. -/
theorem everyStepKeepsTheInvariant : Obligations.EveryStepKeepsTheInvariant :=
  fun _ _ h hstep => h.step hstep

/-! ## Construction and the host's events -/

theorem State.Inv.of_construct {cfg : Config} {image : List Byte} {s : State} (h : construct cfg image = .next s) : s.Inv := by
  obtain ⟨hlen, rfl⟩ := construct_eq_next.1 h
  have hbank : progBase + image.length ≤ memSize := Nat.add_le_of_le_sub' (by decide) hlen
  have hbound : State.reset.pc.toNat ≤ 0x1001 := by decide
  have heven : State.reset.pc.toNat % 2 = 0 := by decide
  have hempty (k : Fin 16) (hk : 1 ≤ k.val) : ¬ k.val ≤ State.reset.sp.val := Nat.not_le.2 hk
  exact ⟨writeBytes_wf image [] progBase hbank rfl, hbound, fun _ => heven, fun k hk hlive => absurd hlive (hempty k hk)⟩

/-- Settles O58: the reset state is the machine constructed from the empty image. -/
theorem resetMeetsTheInvariant : Obligations.ResetMeetsTheInvariant :=
  .of_construct construct_reset_nil

theorem State.Inv.timerTick {s : State} (h : s.Inv) : (timerTick s).Inv :=
  ⟨h.mem_wf, h.pc_bound, h.pc_even, h.slots_ok⟩

theorem State.Inv.setKey {s : State} (h : s.Inv) (k : Fin 16) (b : Bool) : (s.setKey k b).Inv :=
  ⟨h.mem_wf, h.pc_bound, h.pc_even, h.slots_ok⟩

theorem State.Inv.resolved {s : State} (h : s.Inv) (k : Fin 16) (r : RegIdx) : (s.resolved k r).Inv :=
  ⟨h.mem_wf, h.pc_bound, h.pc_even, h.slots_ok⟩

theorem State.Inv.keyEvent {s : State} (h : s.Inv) (k : Fin 16) (pressed : Bool) :
    (deliver (.keyEvent k.val pressed) s).1.Inv := by
  cases hwait : s.wait with
  | ready => rw [deliver_keyEvent_of_ready hwait]; exact h.setKey k pressed
  | awaitingKey r =>
    cases pressed with
    | false => rw [deliver_release]; exact h.setKey k false
    | true => rw [deliver_press_of_awaiting hwait]; exact h.resolved k r

theorem State.Inv.deliver {s : State} (h : s.Inv) (e : HostEvent) : (deliver e s).1.Inv := by
  cases e with
  | stepRequest => exact hostView_fst_of_next h fun _ => h.step
  | timerTick => exact h.timerTick
  | keyEvent k pressed =>
    by_cases hk : k < 16
    · lift k to Fin 16 using hk
      exact h.keyEvent k pressed
    · rwa [deliver_keyEvent_of_gt (by omega)]
  | batchTick n => exact (batchSteps_keeps (fun _ _ hstep ht => ht.step hstep) n s h).timerTick

/-- Settles O60: construction meets the invariant and every event keeps it, so every sequence of events does. -/
theorem everyReachableStateMeetsTheInvariant : Obligations.EveryReachableStateMeetsTheInvariant :=
  ⟨fun _ e h => h.deliver e, fun _ _ _ => .of_construct,
    fun _ _ s es h => runEvents_keeps (fun _ e hs => hs.deliver e) es s (.of_construct h)⟩

end Sys2Proof.Machine
end

section
/-! PROOF. The illegal words (30_encoding.md R110): a word decodes to nothing exactly where a group's selector field names no row. -/

namespace Sys2Proof

/-! ## The selectors that name no row -/

theorem decodeGroup8_eq_error {w : Word} {e : DecodeError} :
    decodeGroup8 w = .error e ↔ fieldN w ∈ [0x8#4, 0x9#4, 0xA#4, 0xB#4, 0xC#4, 0xD#4, 0xF#4] ∧ e = .decodeFailure w := by
  have hrest : ∀ n : BitVec 4, n ∉ [0x0#4, 0x1#4, 0x2#4, 0x3#4, 0x4#4, 0x5#4, 0x6#4, 0x7#4, 0xE#4] →
      n ∈ [0x8#4, 0x9#4, 0xA#4, 0xB#4, 0xC#4, 0xD#4, 0xF#4] := by decide
  unfold decodeGroup8
  split
  case h_10 => rw [Except.error.injEq, eq_comm, iff_and_self]; exact fun _ => hrest _ (by simp_all)
  all_goals next hN => simp [hN]

theorem decodeGroupE_eq_error {w : Word} {e : DecodeError} :
    decodeGroupE w = .error e ↔ fieldKK w ∉ [0x9E#8, 0xA1#8] ∧ e = .decodeFailure w := by
  unfold decodeGroupE
  split
  case h_3 => rw [Except.error.injEq, eq_comm, iff_and_self]; exact fun _ => by simp_all
  all_goals next hKK => simp [hKK]

theorem decodeGroupF_eq_error {w : Word} {e : DecodeError} :
    decodeGroupF w = .error e ↔
      fieldKK w ∉ [0x07#8, 0x0A#8, 0x15#8, 0x18#8, 0x1E#8, 0x29#8, 0x33#8, 0x55#8, 0x65#8] ∧ e = .decodeFailure w := by
  unfold decodeGroupF
  split
  case h_10 => rw [Except.error.injEq, eq_comm, iff_and_self]; exact fun _ => by simp_all
  all_goals next hKK => simp [hKK]

/-! ## The five groups -/

/-- The values of the major opcode `O`. -/
def nibbles : List (BitVec 4) :=
  [0x0, 0x1, 0x2, 0x3, 0x4, 0x5, 0x6, 0x7, 0x8, 0x9, 0xA, 0xB, 0xC, 0xD, 0xE, 0xF]

theorem mem_nibbles (o : BitVec 4) : o ∈ nibbles := by
  revert o
  decide

/-- The word is in one of the five groups of 30_encoding.md R110, by its fields. -/
def illegalWord (w : Word) : Prop :=
  ((fieldO w = 5 ∨ fieldO w = 9) ∧ fieldN w ≠ 0) ∨
  (fieldO w = 8 ∧ fieldN w ∈ [0x8#4, 0x9#4, 0xA#4, 0xB#4, 0xC#4, 0xD#4, 0xF#4]) ∨
  (fieldO w = 0xE ∧ fieldKK w ∉ [0x9E#8, 0xA1#8]) ∨
  (fieldO w = 0xF ∧ fieldKK w ∉ [0x07#8, 0x0A#8, 0x15#8, 0x18#8, 0x1E#8, 0x29#8, 0x33#8, 0x55#8, 0x65#8])

theorem not_illegalWord_of_fieldO {w : Word} (h : fieldO w = 0) : ¬ illegalWord w := by
  simp [illegalWord, h]

theorem decode_eq_error {w : Word} {e : DecodeError} : decode w = .error e ↔ illegalWord w ∧ e = .decodeFailure w := by
  by_cases hcls : w = 0x00E0#16
  · have hlegal := not_illegalWord_of_fieldO (w := w) (hcls ▸ rfl)
    simp [decode, hcls, hcls ▸ hlegal]
  by_cases hret : w = 0x00EE#16
  · have hlegal := not_illegalWord_of_fieldO (w := w) (hret ▸ rfl)
    simp [decode, hret, hret ▸ hlegal]
  rw [decode, if_neg hcls, if_neg hret]
  -- the branches come in the order of `O`: `h_1` is `O` = 0, `h_16` is `O` = F, and no `O` is left for `h_17`
  split
  case h_6 hO | h_10 hO =>
    split
    · next hN => simp [illegalWord, hO, hN]
    · next hN => simp [illegalWord, hO, hN, eq_comm]
  case h_9 hO => simp [illegalWord, hO, decodeGroup8_eq_error]
  case h_15 hO => simp [illegalWord, hO, decodeGroupE_eq_error]
  case h_16 hO => simp [illegalWord, hO, decodeGroupF_eq_error]
  case h_17 =>
    have hO := mem_nibbles (fieldO w)
    simp_all [nibbles]
  all_goals next hO => simp [illegalWord, hO]

/-- The groups by the numbers that the fields are (30_encoding.md R102). -/
theorem illegalWord_iff (w : Word) : illegalWord w ↔
    ((w.toNat / 4096 = 5 ∨ w.toNat / 4096 = 9) ∧ w.toNat % 16 ≠ 0) ∨
    (w.toNat / 4096 = 8 ∧ w.toNat % 16 ∈ [8, 9, 0xA, 0xB, 0xC, 0xD, 0xF]) ∨
    (w.toNat / 4096 = 0xE ∧ w.toNat % 256 ∉ [0x9E, 0xA1]) ∨
    (w.toNat / 4096 = 0xF ∧ w.toNat % 256 ∉ [0x07, 0x0A, 0x15, 0x18, 0x1E, 0x29, 0x33, 0x55, 0x65]) := by
  obtain ⟨hO, -, -, hN, hKK, -⟩ := fieldsAreTheSlicesOfTheWord w
  simp [illegalWord, ← BitVec.toNat_inj, hO, hN, hKK]

/-- Settles O4: each group's selector decides the error, which carries the word. -/
theorem illegalWordsAreTheFiveGroups : Obligations.IllegalWordsAreTheFiveGroups := by
  intro w
  refine ⟨?groups, fun e h => (decode_eq_error.1 h).2⟩
  case groups => simp only [decode_eq_error, exists_and_left, exists_eq, and_true, illegalWord_iff]

end Sys2Proof
end

section
/-! PROOF. Loading and stepping (70_reset_and_hazards.md R310 to R312, R317; 40_step_engine.md R142): what a store of bytes leaves alone,
the image and the word that the host places, the fetch past the bank, and the jump to itself. -/

namespace Sys2Proof.Machine

/-! ## The frame of a store (20_memory.md R78) -/

theorem not_inBytes_byte {a n k : Nat} : ¬ (Part.byte k).inBytes a n ↔ k < a ∨ a + n ≤ k := by
  constructor
  · intro h
    by_contra hin
    exact h ⟨k - a, by omega, congrArg Part.byte (by omega)⟩
  · rintro h ⟨j, hj, heq⟩
    have hk : k = a + j := Part.byte.inj heq
    omega

theorem byte_setMem_writeBytes_outside {s : State} {a n k : Nat} {bs : List Byte} (hlen : bs.length = n)
    (h : ¬ (Part.byte k).inBytes a n) : (s.setMem (writeBytes s.mem a bs)).byte k = s.byte k :=
  readByte_writeBytes_outside bs s.mem a k (hlen ▸ not_inBytes_byte.1 h)

theorem onlyChanges_setMem_writeBytes (s : State) (a : Nat) {n : Nat} {bs : List Byte} (hlen : bs.length = n) :
    OnlyChanges (·.inBytes a n) s (s.setMem (writeBytes s.mem a bs)) := by
  intro p hp
  cases p with
  | byte k => exact byte_setMem_writeBytes_outside hlen hp
  | _ => rfl

/-! ## The placed word (notes/assumptions/7.md) -/

theorem onlyChanges_readyToFetch (s : State) : OnlyChanges (fun p => p = .wait ∨ p = .pc) s (readyToFetch s) := by
  intro p hp
  cases p with
  | wait | pc => exact absurd (by simp) hp
  | _ => rfl

theorem readyToFetch_pc_of_le {s : State} (h : s.pc.toNat + 2 ≤ memSize) : (readyToFetch s).pc = s.pc :=
  if_pos h

/-- Once readied, a state can fetch: from its own `pc`, or from the entry point. -/
theorem readyToFetch_pc_le (s : State) : (readyToFetch s).pc.toNat + 2 ≤ memSize := by
  by_cases h : s.pc.toNat + 2 ≤ memSize
  · rwa [readyToFetch_pc_of_le h]
  · rw [show (readyToFetch s).pc = BitVec.ofNat 16 progBase from if_neg h]
    decide

theorem fetchWord_placeWord (s : State) (w : Word) : (placeWord s w).fetchWord = w :=
  wordOfBytes_writeBytes s.mem s.pc.toNat w

theorem decodeTableWord_eq_some {nbits w : Nat} {i : Instr} :
    decodeTableWord nbits w = some i ↔ decode (BitVec.ofNat 16 (w % 2 ^ nbits)) = .ok i := by
  rw [decodeTableWord, decodeBytes, wordOfBytes_highByte_lowByte]
  cases decode (BitVec.ofNat 16 (w % 2 ^ nbits)) <;> simp

theorem onlyChanges_withFetchWord (s : State) (nbits w : Nat) :
    OnlyChanges (fun p => p = .wait ∨ p = .pc ∨ p.inBytes (s.withFetchWord nbits w).pc.toNat 2) s (s.withFetchWord nbits w) := by
  refine ((onlyChanges_readyToFetch s).trans (onlyChanges_setMem_writeBytes _ (readyToFetch s).pc.toNat rfl)).mono fun p hp => ?_
  exact or_assoc.1 hp

/-- Settles O8: the placed word is fetched from where it was stored, and the store and the readying are all that placing it does. -/
theorem placedWordRunsNext : Obligations.PlacedWordRunsNext := by
  intro s w i h
  have hdecode : decode (s.withFetchWord 16 w).fetchWord = .ok i := by
    rw [State.withFetchWord, fetchWord_placeWord]
    exact decodeTableWord_eq_some.1 h
  exact ⟨step_of_decode rfl (readyToFetch_pc_le s) hdecode, onlyChanges_withFetchWord s 16 w, readyToFetch_pc_of_le⟩

/-! ## The image (70_reset_and_hazards.md R310, R312) -/

/-- Settles O16: the image is one store from 0x200 into the empty bank, where the length allows it. -/
theorem constructLoadsTheImage : Obligations.ConstructLoadsTheImage := by
  intro cfg image
  refine ⟨fun hlen => ⟨_, construct_eq_next.2 ⟨hlen, rfl⟩, rfl, rfl, rfl, ?image, ?frame⟩, fun hlen => if_pos hlen⟩
  case image => exact fun j hj => readByte_writeBytes_inside image [] progBase j hj
  case frame =>
    intro p hp
    obtain ⟨hconfig, hbytes⟩ := not_or.1 hp
    cases p with
    | config => exact absurd rfl hconfig
    | byte k => exact byte_setMem_writeBytes_outside (s := State.reset) rfl hbytes
    | _ => rfl

/-! ## The fetch past the bank (40_step_engine.md R142, D4) -/

theorem checkRange_of_gt {a n : Nat} (ins : Option Instr) (hn : 0 < n) (h : memSize < a + n) :
    checkRange ins a n = some (.outOfBoundsAddress (max a memSize) ins) :=
  checkRange_eq_some.2 ⟨Nat.ne_of_gt hn, h, rfl⟩

/-- Settles O11: the two bytes at `pc` do not both lie in the bank, and the lowest address outside is `pc` or the first past the end. -/
theorem fetchPastTheBankFaults : Obligations.FetchPastTheBankFaults := by
  intro s hready
  refine ⟨fun hpc => step_of_checkFetch hready ?atTop, fun hpc => step_of_checkFetch hready ?above⟩
  case atTop =>
    rw [checkFetch, hpc]
    exact checkRange_of_gt none Nat.two_pos (by decide)
  case above =>
    have hgt : memSize < s.pc.toNat + 2 := Nat.lt_of_le_of_lt hpc (Nat.lt_add_of_pos_right Nat.two_pos)
    rw [checkFetch, checkRange_of_gt none Nat.two_pos hgt, max_eq_left hpc]

end Sys2Proof.Machine
end

section
/-! PROOF. Control flow (43_control_flow.md section 1): the transfers, the faults of their targets, and the call with its return. -/

namespace Sys2Proof.Machine

/-- An instruction whose checks all pass leaves its effect. -/
theorem exec_of_execCheck {i : Instr} {s : State} (h : execCheck i s = none) : exec i s = .next (execEffect i s) :=
  exec_eq_next.2 ⟨h, rfl⟩

/-! ## The transfers (43_control_flow.md R211, R214) -/

theorem onlyChanges_jumpTo (s : State) (t : Nat) : OnlyChanges (· ∈ [.pc]) s (s.jumpTo t) := by
  intro p hp
  cases p with
  | pc => exact absurd (List.mem_singleton.2 rfl) hp
  | _ => rfl

theorem checkTarget_of_legal {cfg : Config} {t : Nat} (ins : Instr) (h : legalTarget cfg t) : checkTarget ins cfg t = none :=
  checkTarget_eq_none.2 h

/-- Settles O33: a legal target passes its check and fits `pc`. -/
theorem jumpSetsPcToTheTarget : Obligations.JumpSetsPcToTheTarget := by
  intro s nnn
  constructor
  · intro h
    have hcheck := checkTarget_of_legal (.jp nnn) h
    exact ⟨_, exec_of_execCheck hcheck, toNat_jumpTo_pc s hcheck, onlyChanges_jumpTo s _⟩
  · intro h
    have hcheck := checkTarget_of_legal (.jpV0 nnn) h
    exact ⟨_, exec_of_execCheck hcheck, toNat_jumpTo_pc s hcheck, onlyChanges_jumpTo s _⟩

theorem jumpTo_pc_self (s : State) : s.jumpTo s.pc.toNat = s := by
  simp [State.jumpTo]

/-- Settles O14: the step runs the jump, and a jump to `pc` writes what `pc` already holds. -/
theorem selfJumpIsAFixedPoint : Obligations.SelfJumpIsAFixedPoint := by
  intro s nnn hready hbank hdecode hself hlegal
  have htarget : legalTarget s.cfg nnn.toNat := hself ▸ hlegal
  have hcheck : execCheck (.jp nnn) s = none := checkTarget_of_legal _ htarget
  have heffect : execEffect (.jp nnn) s = s := (congrArg s.jumpTo hself).trans (jumpTo_pc_self s)
  rw [step_of_decode hready hbank hdecode, exec_of_execCheck hcheck, heffect]

/-! ## Illegal targets (43_control_flow.md R210, D6 to D8) -/

theorem checkTarget_of_outside {t : Nat} (ins : Instr) (cfg : Config) (h : t < 0x200 ∨ 0xFFE < t) :
    checkTarget ins cfg t = some (.outOfBoundsAddress t (some ins)) :=
  if_pos h

theorem checkTarget_of_odd {cfg : Config} {t : Nat} (ins : Instr) (hlo : 0x200 ≤ t) (hhi : t ≤ 0xFFE)
    (hstrict : cfg.strictAlign = true) (hodd : t % 2 = 1) : checkTarget ins cfg t = some (.unevenAddress t (some ins)) := by
  rw [checkTarget, if_neg (not_or.2 ⟨Nat.not_lt.2 hlo, Nat.not_lt.2 hhi⟩), if_pos ⟨hstrict, hodd⟩]

/-- Below the top of the stack a CALL faults as its target does (D8). -/
theorem execCheck_call_of_sp {s : State} (hsp : s.sp ≠ 15) (nnn : Addr12) :
    execCheck (.call nnn) s = checkTarget (.call nnn) s.cfg nnn.toNat := by
  rw [execCheck, checkPush_eq_none.2 hsp, Option.none_or, absoluteTarget]

/-- Settles O34: the three transfers share one check, which looks at the range before the parity. -/
theorem illegalTargetsFault : Obligations.IllegalTargetsFault := by
  intro s nnn
  refine ⟨fun hout => ⟨?_, fun hsp => ?_⟩, fun hlo hhi hstrict hodd => ⟨?_, fun hsp => ?_⟩, fun hout => ?_,
    fun hlo hhi hstrict hodd => ?_⟩
  · exact exec_eq_fault.2 (checkTarget_of_outside _ _ hout)
  · rw [exec_eq_fault, execCheck_call_of_sp hsp]
    exact checkTarget_of_outside _ _ hout
  · exact exec_eq_fault.2 (checkTarget_of_odd _ hlo hhi hstrict hodd)
  · rw [exec_eq_fault, execCheck_call_of_sp hsp]
    exact checkTarget_of_odd _ hlo hhi hstrict hodd
  · exact exec_eq_fault.2 (checkTarget_of_outside _ _ hout)
  · exact exec_eq_fault.2 (checkTarget_of_odd _ hlo hhi hstrict hodd)

/-! ## 2NNN and its return (43_control_flow.md R212, 90_conflicts.md C1) -/

theorem State.slot_push_self (s : State) (a : Word) : (s.push a).slot (s.sp + 1) = a := by
  rw [State.slot_push, if_pos rfl]

theorem onlyChanges_push (s : State) (a : Word) : OnlyChanges (· ∈ [.sp, .slot (s.sp + 1)]) s (s.push a) := by
  intro p hp
  cases p with
  | sp => exact absurd (by simp) hp
  | slot k =>
    have hk : k ≠ s.sp + 1 := fun e => hp (by simp [e])
    exact (s.slot_push a k).trans (if_neg hk)
  | _ => rfl

theorem onlyChanges_push_jumpTo (s : State) (a : Word) (t : Nat) :
    OnlyChanges (· ∈ [.sp, .slot (s.sp + 1), .pc]) s ((s.push a).jumpTo t) := by
  refine ((onlyChanges_push s a).trans (onlyChanges_jumpTo _ t)).mono fun p hp => ?_
  simpa [or_assoc] using hp

theorem checkPush_full (ins : Instr) : checkPush ins 15 = some (.stackOverflow (some ins)) := rfl

/-- Settles O35: below the top a CALL is a push of `pc` and a transfer; at the top the push is refused before the target is looked at. -/
theorem callPushesItsOwnAddress : Obligations.CallPushesItsOwnAddress := by
  intro s nnn
  constructor
  · intro hsp hlegal
    have htarget := checkTarget_of_legal (.call nnn) hlegal
    have hcheck : execCheck (.call nnn) s = none := (execCheck_call_of_sp hsp nnn).trans htarget
    exact ⟨_, exec_of_execCheck hcheck, sp_add_one hsp, s.slot_push_self s.pc, toNat_jumpTo_pc _ htarget,
      onlyChanges_push_jumpTo s s.pc nnn.toNat⟩
  · intro hsp
    rw [exec_eq_fault, execCheck, hsp, checkPush_full, Option.some_or]

/-- The return from a call: the pointer is back where it was, and only the slot of the call and `pc` have changed. -/
theorem onlyChanges_call_ret (s : State) (nnn : Addr12) :
    OnlyChanges (· ∈ [.pc, .slot (s.sp + 1)]) s (execEffect .ret (execEffect (.call nnn) s)) := by
  intro p hp
  cases p with
  | sp => exact add_sub_cancel_right s.sp 1
  | pc => exact absurd (by simp) hp
  | slot k => exact onlyChanges_push s s.pc (.slot k) (by simpa using hp)
  | _ => rfl

/-- Settles O37: a completed call has pushed, so the return's check passes and it pops the call's own address. -/
theorem callThenReturnIsANormalAdvance : Obligations.CallThenReturnIsANormalAdvance := by
  intro s t nnn h
  obtain ⟨hcheck, rfl⟩ := exec_eq_next.1 h
  obtain ⟨hpush, -⟩ := Option.or_eq_none_iff.1 hcheck
  have hsp : (execEffect (.call nnn) s).sp ≠ 0 := by
    have hval : (execEffect (.call nnn) s).sp.val = s.sp.val + 1 := sp_add_one (checkPush_eq_none.1 hpush)
    exact Fin.val_ne_zero_iff.1 (hval ▸ Nat.succ_ne_zero _)
  exact ⟨_, exec_of_execCheck (checkPop_eq_none.2 hsp), congrArg (· + 2) (s.slot_push_self s.pc), add_sub_cancel_right s.sp 1,
    onlyChanges_call_ret s nnn⟩

end Sys2Proof.Machine
end

section
/-! PROOF. The index register and the memory instructions (41_index_memory.md): the two index writes, the three range instructions with
their frames and faults, and that a fill and a spill undo each other. -/

namespace Sys2Proof.Machine

/-! ## FX1E and FX29 (41_index_memory.md R161, R162) -/

/-- Settles O18: FX1E checks nothing, and its effect is the new index and the normal advance. -/
theorem addIndexWrapsWithoutFlag : Obligations.AddIndexWrapsWithoutFlag := by
  intro s x
  have hindex : (BitVec.ofNat 16 ((s.index.toNat + (s.reg x).toNat) % 65536)).toNat = (s.index.toNat + (s.reg x).toNat) % 65536 :=
    BitVec.toNat_ofNat _ _ |>.trans (Nat.mod_mod _ _)
  exact ⟨_, exec_of_execCheck (i := .addI x) rfl, hindex, rfl, onlyChanges_setIndex_advance s _⟩

theorem toNat_glyphAddress (d : Byte) : (glyphAddress d).toNat = 5 * d.toNat := by
  have := d.isLt
  rw [glyphAddress, BitVec.toNat_ofNat]
  omega

/-- Settles O19: the digit decides the one check of FX29, whose effect is the glyph's address and the normal advance. -/
theorem glyphAddressOfADigit : Obligations.GlyphAddressOfADigit := by
  intro s x
  constructor
  · intro hdigit
    exact ⟨_, exec_of_execCheck (i := .ldF x) (checkDigit_eq_none.2 hdigit), toNat_glyphAddress _, rfl,
      onlyChanges_setIndex_advance s _⟩
  · intro hdigit
    exact exec_eq_fault.2 (if_pos hdigit)

/-! ## The stores FX33 and FX55 (41_index_memory.md R163, R164) -/

theorem checkStore_of_legal {cfg : Config} {a n : Nat} (ins : Instr) (hn : n ≠ 0) (h : legalStore cfg a n) :
    checkStore ins cfg a n = none :=
  (checkStore_eq_none hn).2 h

theorem onlyChanges_setMem_writeBytes_advance (s : State) (a : Nat) {n : Nat} {bs : List Byte} (hlen : bs.length = n) :
    OnlyChanges (fun p => p = .pc ∨ p.inBytes a n) s (s.setMem (writeBytes s.mem a bs)).advance := by
  refine ((onlyChanges_setMem_writeBytes s a hlen).trans (onlyChanges_advance _)).mono fun p hp => ?_
  exact hp.symm.imp_left List.mem_singleton.1

/-- The three digits are below ten, so none is cut (41_index_memory.md R163). -/
theorem toNat_decimalDigits (b : Byte) : (decimalDigits b)[0].toNat = b.toNat / 100 ∧ (decimalDigits b)[1].toNat = b.toNat / 10 % 10 ∧
    (decimalDigits b)[2].toNat = b.toNat % 10 := by
  have := b.isLt
  simp only [decimalDigits, List.getElem_cons_zero, List.getElem_cons_succ, BitVec.toNat_ofNat]
  omega

theorem execEffect_ldB_byte (s : State) (x : RegIdx) {k : Nat} (hk : k < 3) :
    (execEffect (.ldB x) s).byte (s.effectiveAddress k) = (decimalDigits (s.reg x))[k] :=
  readByte_writeBytes_inside (decimalDigits (s.reg x)) s.mem (s.effectiveAddress 0) k hk

/-- Settles O20: a legal range passes the check, and the effect is one store of the three digits with the normal advance. -/
theorem decimalStoreWritesThreeDigits : Obligations.DecimalStoreWritesThreeDigits := by
  intro s x hlegal
  obtain ⟨hhundreds, htens, hunits⟩ := toNat_decimalDigits (s.reg x)
  have hbyte (k : Nat) (hk : k < 3) := congrArg BitVec.toNat (execEffect_ldB_byte s x hk)
  exact ⟨_, exec_of_execCheck (i := .ldB x) (checkStore_of_legal _ (by decide) hlegal), (hbyte 0 (by decide)).trans hhundreds,
    (hbyte 1 (by decide)).trans htens, (hbyte 2 (by decide)).trans hunits, rfl, onlyChanges_setMem_writeBytes_advance s _ rfl⟩

theorem onlyChanges_execEffect_ldMemVx (s : State) (x : RegIdx) :
    OnlyChanges (fun p => p = .pc ∨ p.inBytes (s.effectiveAddress 0) (x.val + 1)) s (execEffect (.ldMemVx x) s) :=
  onlyChanges_setMem_writeBytes_advance s _ (s.spillBytes_length x)

/-- Settles O21: a legal range passes the check, and the effect is one store of V0..VX with the normal advance. -/
theorem spillStoresRegistersInclusive : Obligations.SpillStoresRegistersInclusive := by
  intro s x hlegal
  exact ⟨_, exec_of_execCheck (i := .ldMemVx x) (checkStore_of_legal _ (Nat.succ_ne_zero x.val) hlegal),
    fun _ hk => execEffect_ldMemVx_byte s hk, rfl, onlyChanges_execEffect_ldMemVx s x⟩

/-! ## The fill FX65 (41_index_memory.md R165) -/

theorem execEffect_ldVxMem_reg (s : State) (x r : RegIdx) :
    (execEffect (.ldVxMem x) s).reg r = if r ≤ x then s.byte (s.effectiveAddress r.val) else s.reg r := by
  rw [execEffect, State.advance_reg, State.reg_filledRegs, ← effectiveAddress_eq_add]

theorem onlyChanges_setRegs {s : State} {v : Vector Byte 16} {c : RegIdx → Prop} (h : ∀ r, ¬ c r → v[r.val] = s.reg r) :
    OnlyChanges (fun p => ∃ k, c k ∧ p = .reg k) s (s.setRegs v) := by
  intro p hp
  cases p with
  | reg r => exact h r fun hr => hp ⟨r, hr, rfl⟩
  | _ => rfl

theorem onlyChanges_execEffect_ldVxMem (s : State) (x : RegIdx) :
    OnlyChanges (fun p => p = .pc ∨ ∃ k : RegIdx, k ≤ x ∧ p = .reg k) s (execEffect (.ldVxMem x) s) := by
  have hkept (r : RegIdx) (hr : ¬ r ≤ x) : (s.filledRegs x (s.effectiveAddress 0))[r.val] = s.reg r :=
    (execEffect_ldVxMem_reg s x r).trans (if_neg hr)
  refine ((onlyChanges_setRegs hkept).trans (onlyChanges_advance _)).mono fun p hp => ?_
  exact hp.symm.imp_left List.mem_singleton.1

/-- Settles O22: the range in the bank is the only check, and the effect replaces V0..VX and advances. -/
theorem fillLoadsRegistersInclusive : Obligations.FillLoadsRegistersInclusive := by
  intro s x hbank
  refine ⟨_, exec_of_execCheck (i := .ldVxMem x) (checkRange_eq_none.2 (.inr hbank)),
    fun k hk => (execEffect_ldVxMem_reg s x k).trans (if_pos hk), ?pc, onlyChanges_execEffect_ldVxMem s x⟩
  case pc => rw [execEffect, State.advance_pc, State.setRegs_pc]

/-! ## Ranges that fault (20_memory.md R76, R77) -/

theorem checkStore_of_gt {a n : Nat} (ins : Instr) (cfg : Config) (hn : 0 < n) (h : memSize < a + n) :
    checkStore ins cfg a n = some (.outOfBoundsAddress (max a memSize) (some ins)) := by
  rw [checkStore, checkRange_of_gt _ hn h, Option.some_or]

/-- The glyph table ends so far below the top of the bank that a range of at most sixteen bytes from it stays in the bank. -/
theorem checkStore_of_glyph {cfg : Config} {a n : Nat} (ins : Instr) (hn : n ≤ 16) (hcfg : cfg.glyphWrite = .fault)
    (ha : a ≤ glyphEnd) : checkStore ins cfg a n = some (.outOfBoundsAddress a (some ins)) := by
  have hbank : a + n ≤ memSize := (Nat.add_le_add ha hn).trans (by decide)
  rw [checkStore, checkRange_eq_none.2 (.inr hbank), Option.none_or, checkGlyph, if_pos ⟨hcfg, ha⟩]

/-- Settles O23: the bank is checked before the glyph table, and both checks come before any write. -/
theorem memoryRangeFaults : Obligations.MemoryRangeFaults := by
  intro s x
  refine ⟨fun hgt => ?_, fun hgt => ⟨?_, ?_⟩, fun hcfg hglyph => ⟨?_, ?_⟩⟩
  · exact exec_eq_fault.2 (checkStore_of_gt _ _ (by decide) hgt)
  · exact exec_eq_fault.2 (checkStore_of_gt _ _ (Nat.succ_pos _) hgt)
  · exact exec_eq_fault.2 (checkRange_of_gt _ (Nat.succ_pos _) hgt)
  · exact exec_eq_fault.2 (checkStore_of_glyph _ (by decide) hcfg hglyph)
  · exact exec_eq_fault.2 (checkStore_of_glyph _ x.isLt hcfg hglyph)

/-! ## Fill and spill (95_test_vectors.md S3) -/

theorem effectiveAddress_congr {s t : State} (h : t.index = s.index) (k : Nat) : t.effectiveAddress k = s.effectiveAddress k :=
  congrArg (·.toNat + k) h

/-- What a completed fill has done. -/
theorem exec_ldVxMem_next {s t : State} {x : RegIdx} (h : exec (.ldVxMem x) s = .next t) :
    (∀ r, t.reg r = if r ≤ x then s.byte (s.effectiveAddress r.val) else s.reg r) ∧
    t.index = s.index ∧ ∀ a, t.byte a = s.byte a := by
  obtain ⟨-, rfl⟩ := exec_eq_next.1 h
  have hframe := onlyChanges_execEffect_ldVxMem s x
  exact ⟨execEffect_ldVxMem_reg s x, hframe .index (by simp), fun a => hframe (.byte a) (by simp)⟩

/-- What a completed spill has done. -/
theorem exec_ldMemVx_next {s t : State} {x : RegIdx} (h : exec (.ldMemVx x) s = .next t) :
    (∀ k : RegIdx, k ≤ x → t.byte (s.effectiveAddress k.val) = s.reg k) ∧
    (∀ a, ¬ (Part.byte a).inBytes (s.effectiveAddress 0) (x.val + 1) → t.byte a = s.byte a) ∧
    t.index = s.index ∧ ∀ r, t.reg r = s.reg r := by
  obtain ⟨-, rfl⟩ := exec_eq_next.1 h
  have hframe := onlyChanges_execEffect_ldMemVx s x
  exact ⟨fun _ hk => execEffect_ldMemVx_byte s hk, fun a ha => hframe (.byte a) (not_or.2 ⟨nofun, ha⟩), rfl, fun _ => rfl⟩

/-- A spill of registers that already hold the bytes of its range changes no byte. -/
theorem byte_spill_of_filled {s t : State} {x : RegIdx} (h : exec (.ldMemVx x) s = .next t)
    (hfilled : ∀ r, r ≤ x → s.reg r = s.byte (s.effectiveAddress r.val)) (a : Nat) : t.byte a = s.byte a := by
  obtain ⟨hstored, houtside, -, -⟩ := exec_ldMemVx_next h
  by_cases ha : (Part.byte a).inBytes (s.effectiveAddress 0) (x.val + 1)
  · obtain ⟨k, hk, heq⟩ := ha
    obtain rfl : a = s.effectiveAddress k := Part.byte.inj heq
    lift k to RegIdx using by omega
    have hkx : k ≤ x := Nat.le_of_lt_succ hk
    exact (hstored k hkx).trans (hfilled k hkx)
  · exact houtside a ha

/-- Settles O24: neither instruction moves `I`, so both go through the same bytes and registers. -/
theorem fillThenSpillRestoresMemory : Obligations.FillThenSpillRestoresMemory := by
  intro s t u x
  constructor
  · intro hfill hspill
    obtain ⟨hreg, hindex, hbyte⟩ := exec_ldVxMem_next hfill
    obtain ⟨-, -, hindex', -⟩ := exec_ldMemVx_next hspill
    have hfilled (r : RegIdx) (hr : r ≤ x) : t.reg r = t.byte (t.effectiveAddress r.val) := by
      rw [hreg, if_pos hr, hbyte, effectiveAddress_congr hindex]
    exact ⟨fun a => (byte_spill_of_filled hspill hfilled a).trans (hbyte a), hindex'.trans hindex⟩
  · intro hspill hfill
    obtain ⟨hstored, -, hindex, hkept⟩ := exec_ldMemVx_next hspill
    obtain ⟨hreg, hindex', -⟩ := exec_ldVxMem_next hfill
    refine ⟨fun r => ?_, hindex'.trans hindex⟩
    rw [hreg, effectiveAddress_congr hindex]
    split
    · next hr => exact hstored r hr
    · exact hkept r

end Sys2Proof.Machine
end

section
/-! PROOF. The register arithmetic and logic instructions (42_alu.md): the bitwise operations, the sums and differences with their flag
last, the shifts with their flag first, and the random byte. -/

namespace Sys2Proof.Machine

/-! ## 8XY1, 8XY2 and 8XY3 (42_alu.md R183 to R185) -/

/-- Settles O27: the three are register writes with the normal advance, and the bit vector's own operations act bit by bit. -/
theorem logicWritesVxOnly : Obligations.LogicWritesVxOnly := by
  intro s x y
  refine ⟨?or, ?and, ?xor⟩
  case or =>
    obtain ⟨t, hexec, hreg, hpc, hframe⟩ := exec_of_setReg_advance (i := .orReg x y) (s := s) rfl rfl
    exact ⟨t, hexec, fun _ => by rw [hreg, BitVec.getLsbD_or], hpc, hframe⟩
  case and =>
    obtain ⟨t, hexec, hreg, hpc, hframe⟩ := exec_of_setReg_advance (i := .andReg x y) (s := s) rfl rfl
    exact ⟨t, hexec, fun _ => by rw [hreg, BitVec.getLsbD_and], hpc, hframe⟩
  case xor =>
    obtain ⟨t, hexec, hreg, hpc, hframe⟩ := exec_of_setReg_advance (i := .xorReg x y) (s := s) rfl rfl
    exact ⟨t, hexec, fun _ => by rw [hreg, BitVec.getLsbD_xor], hpc, hframe⟩

/-! ## A result and its flag (42_alu.md R192, D11) -/

theorem onlyChanges_setReg_setReg_advance (s : State) (x y : RegIdx) (b c : Byte) :
    OnlyChanges (· ∈ [.reg x, .reg y, .pc]) s ((s.setReg x b).setReg y c).advance := by
  refine (((onlyChanges_setReg s x b).trans (onlyChanges_setReg _ y c)).trans (onlyChanges_advance _)).mono fun p hp => ?_
  simpa [or_assoc] using hp

theorem onlyChanges_resultThenFlag_advance (s : State) (x : RegIdx) (b : Byte) (f : Bool) :
    OnlyChanges (· ∈ [.reg x, .reg vf, .pc]) s (s.resultThenFlag x b f).advance :=
  onlyChanges_setReg_setReg_advance s x vf b (flagByte f)

theorem onlyChanges_flagThenResult_advance (s : State) (x : RegIdx) (b : Byte) (f : Bool) :
    OnlyChanges (· ∈ [.reg x, .reg vf, .pc]) s (s.flagThenResult x b f).advance :=
  (onlyChanges_setReg_setReg_advance s vf x (flagByte f) b).mono fun _ hp => (List.Perm.swap _ _ _).mem_iff.1 hp

/-- An instruction that checks nothing and writes a result and then its flag: its completion and its frame. -/
theorem exec_of_resultThenFlag_advance {i : Instr} {s : State} {x : RegIdx} {b : Byte} {f : Bool} (hcheck : execCheck i s = none)
    (heffect : execEffect i s = (s.resultThenFlag x b f).advance) :
    ∃ t, exec i s = .next t ∧ t.reg vf = flagByte f ∧ (x ≠ vf → t.reg x = b) ∧ t.pc = s.pc + 2 ∧
      OnlyChanges (· ∈ [.reg x, .reg vf, .pc]) s t := by
  refine ⟨(s.resultThenFlag x b f).advance, exec_eq_next.2 ⟨hcheck, heffect.symm⟩, ?flag, ?result, rfl,
    onlyChanges_resultThenFlag_advance s x b f⟩
  case flag => rw [State.advance_reg, State.reg_resultThenFlag, if_pos rfl]
  case result =>
    intro hx
    rw [State.advance_reg, State.reg_resultThenFlag, if_neg hx, if_pos rfl]

/-- An instruction that checks nothing and writes its flag and then its result: its completion and its frame. -/
theorem exec_of_flagThenResult_advance {i : Instr} {s : State} {x : RegIdx} {b : Byte} {f : Bool} (hcheck : execCheck i s = none)
    (heffect : execEffect i s = (s.flagThenResult x b f).advance) :
    ∃ t, exec i s = .next t ∧ t.reg x = b ∧ (x ≠ vf → t.reg vf = flagByte f) ∧ t.pc = s.pc + 2 ∧
      OnlyChanges (· ∈ [.reg x, .reg vf, .pc]) s t := by
  refine ⟨(s.flagThenResult x b f).advance, exec_eq_next.2 ⟨hcheck, heffect.symm⟩, ?result, ?flag, rfl,
    onlyChanges_flagThenResult_advance s x b f⟩
  case result => rw [State.advance_reg, State.reg_flagThenResult, if_pos rfl]
  case flag =>
    intro hx
    rw [State.advance_reg, State.reg_flagThenResult, if_neg (Ne.symm hx), if_pos rfl]

/-! ## 8XY4, 8XY5 and 8XY7 (42_alu.md R186, R187, R189) -/

theorem flagByte_decide (P : Prop) [Decidable P] : flagByte (decide P) = if P then 1 else 0 := by
  simp [flagByte]

/-- Settles O28: the sum and its carry are written in that order. -/
theorem addWritesSumThenCarry : Obligations.AddWritesSumThenCarry := by
  intro s x y
  obtain ⟨t, hexec, hflag, hreg, hpc, hframe⟩ := exec_of_resultThenFlag_advance (i := .addReg x y) (s := s) rfl rfl
  exact ⟨t, hexec, hflag.trans (flagByte_decide _), fun hx => hreg hx ▸ toNat_addBytes _ _, hpc, hframe⟩

/-- Settles O29: each difference and its NOT-borrow are written in that order; 8XY7 is 8XY5 with the operands exchanged. -/
theorem subtractWritesDifferenceThenNotBorrow : Obligations.SubtractWritesDifferenceThenNotBorrow := by
  intro s x y
  constructor
  · obtain ⟨t, hexec, hflag, hreg, hpc, hframe⟩ := exec_of_resultThenFlag_advance (i := .subReg x y) (s := s) rfl rfl
    exact ⟨t, hexec, hflag.trans (flagByte_decide _), fun hx => hreg hx ▸ toNat_subBytes _ _, hpc, hframe⟩
  · obtain ⟨t, hexec, hflag, hreg, hpc, hframe⟩ := exec_of_resultThenFlag_advance (i := .subn x y) (s := s) rfl rfl
    exact ⟨t, hexec, hflag.trans (flagByte_decide _), fun hx => hreg hx ▸ toNat_subBytes _ _, hpc, hframe⟩

/-! ## 8XY6 and 8XYE (42_alu.md R188, R190) -/

theorem shiftOperand_eq {s : State} {x y : RegIdx} {b : Byte} (hvx : s.cfg.shiftSrc = .vx → b = s.reg x)
    (hvy : s.cfg.shiftSrc = .vy → b = s.reg y) : s.shiftOperand x y = b := by
  rw [State.shiftOperand]
  split
  · next h => exact (hvx h).symm
  · next h => exact (hvy h).symm

theorem toNat_shiftRight (b : Byte) : (shiftRight b).toNat = b.toNat / 2 := by
  rw [shiftRight, BitVec.toNat_ushiftRight, Nat.shiftRight_eq_div_pow]

theorem toNat_shiftLeft (b : Byte) : (shiftLeft b).toNat = 2 * b.toNat % 256 := by
  rw [shiftLeft, BitVec.toNat_shiftLeft, Nat.shiftLeft_eq, Nat.mul_comm]

theorem toNat_flagByte (f : Bool) : (flagByte f).toNat = f.toNat := by
  cases f <;> rfl

theorem toNat_flagByte_shiftRightFlag (b : Byte) : (flagByte (shiftRightFlag b)).toNat = b.toNat % 2 := by
  rw [toNat_flagByte, shiftRightFlag, BitVec.getLsbD, Nat.toNat_testBit, Nat.pow_zero, Nat.div_one]

theorem toNat_flagByte_shiftLeftFlag (b : Byte) : (flagByte (shiftLeftFlag b)).toNat = b.toNat / 128 := by
  have := b.isLt
  rw [toNat_flagByte, shiftLeftFlag, BitVec.getLsbD, Nat.toNat_testBit]
  omega

/-- Settles O30: the parameter picks the operand, and the bit shifted out and the result are written in that order. -/
theorem shiftsWriteFlagThenResult : Obligations.ShiftsWriteFlagThenResult := by
  intro s x y b hvx hvy
  obtain rfl := shiftOperand_eq hvx hvy
  constructor
  · obtain ⟨t, hexec, hreg, hflag, hpc, hframe⟩ := exec_of_flagThenResult_advance (i := .shr x y) (s := s) rfl rfl
    exact ⟨t, hexec, hreg ▸ toNat_shiftRight _, fun hx => hflag hx ▸ toNat_flagByte_shiftRightFlag _, hpc, hframe⟩
  · obtain ⟨t, hexec, hreg, hflag, hpc, hframe⟩ := exec_of_flagThenResult_advance (i := .shl x y) (s := s) rfl rfl
    exact ⟨t, hexec, hreg ▸ toNat_shiftLeft _, fun hx => hflag hx ▸ toNat_flagByte_shiftLeftFlag _, hpc, hframe⟩

/-! ## CXKK (42_alu.md R194) -/

theorem rndWith_reg (r : Byte) (x : RegIdx) (kk : Byte) (s : State) : (rndWith r x kk s).reg x = (r &&& kk) :=
  s.reg_setReg_self x _

theorem onlyChanges_countDraw (s : State) : OnlyChanges (· = .draws) s s.countDraw := by
  intro p hp
  cases p with
  | draws => exact absurd rfl hp
  | _ => rfl

theorem onlyChanges_rndWith (r : Byte) (x : RegIdx) (kk : Byte) (s : State) :
    OnlyChanges (· ∈ [.reg x, .pc, .draws]) s (rndWith r x kk s) := by
  refine (((onlyChanges_setReg s x _).trans (onlyChanges_countDraw _)).trans (onlyChanges_advance _)).mono fun p hp => ?_
  simpa [or_assoc, or_comm, or_left_comm] using hp

theorem getLsbD_and_eq_false {r kk : Byte} {k : Nat} (h : kk.getLsbD k = false) : (r &&& kk).getLsbD k = false := by
  rw [BitVec.getLsbD_and, h, Bool.and_false]

/-- Settles O31: CXKK checks nothing, and its effect is that of `rndWith` for the byte of this draw. -/
theorem randomByteIsMasked : Obligations.RandomByteIsMasked := by
  intro s x kk
  refine ⟨⟨_, exec_of_execCheck (i := .rnd x kk) rfl, rndWith_reg _ x kk s, ?masked, rfl, rfl, onlyChanges_rndWith _ x kk s⟩,
    fun r => rndWith_reg r x kk s⟩
  case masked =>
    intro k hk
    exact (rndWith_reg _ x kk s).symm ▸ getLsbD_and_eq_false hk

end Sys2Proof.Machine
end

section
/-! PROOF. The keys (44_timer_key.md section 2, 60_exceptions.md section 4): the skips that read a key, the wait that FX0A enters, and the
host's events while the engine waits. -/

namespace Sys2Proof.Machine

/-! ## EX9E and EXA1 (44_timer_key.md R233, R234, R236) -/

theorem keyNamed_of_toNat_eq {b : Byte} {k : Fin 16} (s : State) (h : b.toNat = k.val) : s.keyNamed b = s.key k := by
  rw [State.keyNamed, h, finOfNat_val]

theorem checkKey_of_toNat_eq {b : Byte} {k : Fin 16} (ins : Option Instr) (h : b.toNat = k.val) : checkKey ins b.toNat = none :=
  checkKey_eq_none.2 (h ▸ Nat.le_of_lt_succ k.isLt)

/-- Settles O41: a value that names a key passes the check, and the skip tests that key; a value above 15 fails it. -/
theorem keySkipsTestTheNamedKey : Obligations.KeySkipsTestTheNamedKey := by
  intro s x
  refine ⟨fun k hk => ⟨?skp, ?sknp⟩, fun hgt => ⟨exec_eq_fault.2 (if_pos hgt), exec_eq_fault.2 (if_pos hgt)⟩⟩
  case skp => exact exec_of_skipIf (checkKey_of_toNat_eq _ hk) rfl (by rw [keyNamed_of_toNat_eq s hk])
  case sknp => exact exec_of_skipIf (checkKey_of_toNat_eq _ hk) rfl (by rw [keyNamed_of_toNat_eq s hk, Bool.not_eq_true'])

/-! ## FX0A (44_timer_key.md R235, D27) -/

theorem onlyChanges_setWait_advance (s : State) (w : Wait) : OnlyChanges (· ∈ [.wait, .pc]) s (s.setWait w).advance := by
  refine ((onlyChanges_setWait s w).trans (onlyChanges_advance _)).mono fun p hp => ?_
  simpa using hp

/-- Settles O42: FX0A checks nothing, and its effect is the wait and the normal advance. -/
theorem keyWaitEntersAtOnce : Obligations.KeyWaitEntersAtOnce :=
  fun s x => ⟨_, exec_of_execCheck (i := .ldVxK x) rfl, rfl, rfl, onlyChanges_setWait_advance s _⟩

/-! ## The key event (60_exceptions.md R289, R290, D17) -/

/-- What the host holds after an event that succeeded is the event's next state. -/
theorem hostView_eq_ok {o : Host.Outcome State Fault Refusal} {s t : State} (h : hostView o s = (t, .next ())) : o = .next t := by
  cases o with
  | next u => exact congrArg Host.Outcome.next (congrArg Prod.fst h)
  | fault f => cases h
  | refused r => cases h

/-- A release, or any event of a key while the engine is `Ready`, only records the key. -/
theorem keyEvent_of_no_resolve {s : State} {pressed : Bool} (h : pressed = false ∨ s.wait = .ready) (k : Fin 16) :
    keyEvent k.val pressed s = .next (s.setKey k pressed) := by
  obtain rfl | hready := h
  · exact hostView_eq_ok (deliver_release s k)
  · exact hostView_eq_ok (deliver_keyEvent_of_ready hready k pressed)

theorem onlyChanges_setKey_mem (s : State) (k : Fin 16) (b : Bool) : OnlyChanges (· ∈ [.key k]) s (s.setKey k b) :=
  (onlyChanges_setKey s k b).mono fun _ => List.mem_singleton.2

/-- Settles O48: an event either records the key alone, or is a press that meets a wait and resolves it; a bad index faults. -/
theorem keyEventRecordsAndResolves : Obligations.KeyEventRecordsAndResolves := by
  intro s k pressed
  refine ⟨fun hgt => ⟨keyEvent_of_gt hgt pressed s, deliver_keyEvent_of_gt hgt pressed s⟩, ?valid⟩
  case valid =>
    rintro j rfl
    by_cases h : pressed = false ∨ s.wait = .ready
    · refine ⟨_, keyEvent_of_no_resolve h j, s.key_setKey_self j pressed, fun _ => onlyChanges_setKey_mem s j pressed, ?_⟩
      rintro r rfl hwait
      simp [hwait] at h
    · obtain ⟨hpressed, hready⟩ := not_or.1 h
      obtain rfl : pressed = true := Bool.eq_true_of_not_eq_false hpressed
      cases hwait : s.wait with
      | ready => exact absurd hwait hready
      | awaitingKey r =>
        refine ⟨_, hostView_eq_ok (deliver_press_of_awaiting hwait j), s.resolved_key j r, ?_, ?_⟩
        · simp
        · rintro r' - heq
          cases heq
          exact ⟨s.toNat_resolved_reg j r, s.resolved_wait j r, s.onlyChanges_resolved j r⟩

/-! ## Events while the engine waits (60_exceptions.md section 5) -/

theorem onlyChanges_refl (c : Part → Prop) (s : State) : OnlyChanges c s s := by
  intro p _
  cases p <;> rfl

theorem onlyChanges_timerTick_or_key (s : State) :
    OnlyChanges (fun p => p = .delay ∨ p = .sound ∨ ∃ k, p = .key k) s (timerTick s) := by
  refine (onlyChanges_timerTick s).mono fun p hp => ?_
  have htimer : p = .delay ∨ p = .sound := by simpa using hp
  exact htimer.imp_right .inl

/-- Settles O55: a step and the steps of a batch do nothing while waiting, so only the timers are left to move, and the keys by the events
that are no press of a key. -/
theorem onlyAKeyPressLeavesTheWait : Obligations.OnlyAKeyPressLeavesTheWait := by
  intro s r e hwait hpress
  cases e with
  | stepRequest =>
    rw [deliver, stepRequest_fst_of_stopped (.inr ⟨r, hwait⟩)]
    exact ⟨hwait, onlyChanges_refl _ s⟩
  | timerTick => exact ⟨hwait, onlyChanges_timerTick_or_key s⟩
  | keyEvent k pressed =>
    by_cases hk : k < 16
    · lift k to Fin 16 using hk
      have hreleased : pressed = false := by
        by_contra hp
        exact hpress k.val (Nat.le_of_lt_succ k.isLt) (by rw [Bool.eq_true_of_not_eq_false hp])
      rw [hreleased, deliver_release]
      exact ⟨hwait, (onlyChanges_setKey s k false).mono fun _ hp => .inr (.inr ⟨k, hp⟩)⟩
    · rw [deliver_keyEvent_of_gt (by omega)]
      exact ⟨hwait, onlyChanges_refl _ s⟩
  | batchTick n =>
    rw [deliver, batchTick_of_batchSteps (batchSteps_of_awaiting hwait n)]
    exact ⟨hwait, onlyChanges_timerTick_or_key s⟩

end Sys2Proof.Machine
end

section
/-! PROOF. The draw (45_display.md section 2): its two faults, and the loop of the rasterizer as the parallel form. -/

namespace Sys2Proof.Machine

/-! ## The faults of DXYN (45_display.md R256, D4, D8) -/

theorem checkOrigin_of_outside {x y : Byte} (ins : Instr) (h : 64 ≤ x.toNat ∨ 32 ≤ y.toNat) :
    checkOrigin ins x y = some (.outOfScreenBounds x y (some ins)) :=
  if_pos h

/-- With its origin in the grid a draw faults as its sprite's range does. -/
theorem execCheck_drw_of_origin {s : State} {x y : RegIdx} (n : Nibble) (hx : (s.reg x).toNat < 64) (hy : (s.reg y).toNat < 32) :
    execCheck (.drw x y n) s = checkRange (some (.drw x y n)) (s.effectiveAddress 0) n.val := by
  rw [execCheck, checkOrigin_eq_none.2 ⟨hx, hy⟩, Option.none_or]

/-- Settles O45: the origin is checked first, and a sprite of no rows has no range to check. -/
theorem drawFaults : Obligations.DrawFaults := by
  intro s x y n
  constructor
  · intro hout
    rw [exec_eq_fault, execCheck, checkOrigin_of_outside _ hout, Option.some_or]
  · intro hx hy hn hgt
    rw [exec_eq_fault, execCheck_drw_of_origin n hx hy]
    exact checkRange_of_gt _ hn hgt

/-! ## The draw as the parallel form (45_display.md R252 to R255, R258) -/

theorem flagByte_eq_one {f : Bool} : flagByte f = 1 ↔ f = true := by
  cases f <;> decide

theorem flagByte_eq_zero_or_one (f : Bool) : flagByte f = 0 ∨ flagByte f = 1 := by
  cases f <;> decide

theorem onlyChanges_setDisplay_of_kept {s : State} {d : Display} {changed : Fin 32 → Fin 64 → Prop}
    (h : ∀ r c, ¬ changed r c → readPixel d r c = s.pixel r c) :
    OnlyChanges (fun p => ∃ r c, changed r c ∧ p = .pixel r c) s (s.setDisplay d) := by
  intro p hp
  cases p with
  | pixel r c => exact h r c fun hrc => hp ⟨r, c, hrc, rfl⟩
  | _ => rfl

theorem onlyChanges_execEffect_drw (s : State) (x y : RegIdx) (n : Nibble) :
    OnlyChanges (fun p => p = .pc ∨ p = .reg vf ∨ ∃ row col r c, s.covers x y n row col r c ∧ p = .pixel r c) s
      (execEffect (.drw x y n) s) := by
  have hkept (r : Fin 32) (c : Fin 64) (h : ¬ ∃ row col, s.covers x y n row col r c) :
      readPixel (s.drawn x y n).surface r c = s.pixel r c :=
    pixel_execEffect_drw_of_not_covers fun row col hcov => h ⟨row, col, hcov⟩
  refine (((onlyChanges_setDisplay_of_kept hkept).trans (onlyChanges_setReg _ vf _)).trans (onlyChanges_advance _)).mono fun p hp => ?_
  obtain (⟨r, c, ⟨row, col, hcov⟩, hp⟩ | hvf) | hpc := hp
  · exact .inr (.inr ⟨row, col, r, c, hcov, hp⟩)
  · exact .inr (.inl hvf)
  · exact .inl (List.mem_singleton.1 hpc)

/-- Settles O44: with its checks passed the draw is the rasterizer's, which inverts what it covers and reports what it met. -/
theorem drawXorsTheSpriteAndAccumulatesCollision : Obligations.DrawXorsTheSpriteAndAccumulatesCollision := by
  intro s x y n hx hy hrange
  have hcheck : execCheck (.drw x y n) s = none := (execCheck_drw_of_origin n hx hy).trans (checkRange_eq_none.2 hrange)
  refine ⟨_, exec_of_execCheck hcheck, fun _ _ _ _ => pixel_execEffect_drw_of_covers, ?flag, ?binary, rfl,
    onlyChanges_execEffect_drw s x y n⟩
  case flag => rw [execEffect_drw_reg_vf, flagByte_eq_one, drawn_collision_iff]
  case binary => rw [execEffect_drw_reg_vf]; exact flagByte_eq_zero_or_one _

end Sys2Proof.Machine
end

section
/-! PROOF. The writers of each piece of state (10_state.md sections 4 to 6, 20_memory.md section 2): one lemma a piece, by the effects of
the instructions. -/

namespace Sys2Proof.Machine

theorem execEffect_index {i : Instr} (s : State) (hldI : ∀ nnn, i ≠ .ldI nnn) (haddI : ∀ x, i ≠ .addI x) (hldF : ∀ x, i ≠ .ldF x) :
    (execEffect i s).index = s.index := by
  cases i with
  | ldI nnn => exact absurd rfl (hldI nnn)
  | addI x => exact absurd rfl (haddI x)
  | ldF x => exact absurd rfl (hldF x)
  | ldVxMem x => simp [execEffect]
  | _ => rfl

theorem execEffect_dt {i : Instr} (s : State) (hldDtVx : ∀ x, i ≠ .ldDtVx x) : (execEffect i s).dt = s.dt := by
  cases i with
  | ldDtVx x => exact absurd rfl (hldDtVx x)
  | ldVxMem x => simp [execEffect]
  | _ => rfl

theorem execEffect_st {i : Instr} (s : State) (hldStVx : ∀ x, i ≠ .ldStVx x) : (execEffect i s).st = s.st := by
  cases i with
  | ldStVx x => exact absurd rfl (hldStVx x)
  | ldVxMem x => simp [execEffect]
  | _ => rfl

theorem execEffect_sp {i : Instr} (s : State) (hcall : ∀ nnn, i ≠ .call nnn) (hret : i ≠ .ret) : (execEffect i s).sp = s.sp := by
  cases i with
  | call nnn => exact absurd rfl (hcall nnn)
  | ret => exact absurd rfl hret
  | ldVxMem x => simp [execEffect]
  | _ => rfl

theorem execEffect_slot {i : Instr} (s : State) (hcall : ∀ nnn, i ≠ .call nnn) (k : Fin 16) : (execEffect i s).slot k = s.slot k := by
  cases i with
  | call nnn => exact absurd rfl (hcall nnn)
  | ldVxMem x => simp [execEffect]
  | _ => rfl

/-- A push that is not refused goes above slot 0, so nothing ever writes there (10_state.md R42, D20). -/
theorem execEffect_slot_zero {i : Instr} {s : State} (hcheck : execCheck i s = none) : (execEffect i s).slot 0 = s.slot 0 := by
  by_cases hcall : ∃ nnn, i = .call nnn
  · obtain ⟨nnn, rfl⟩ := hcall
    obtain ⟨hpush, -⟩ := Option.or_eq_none_iff.1 hcheck
    have hval : (s.sp + 1).val = s.sp.val + 1 := sp_add_one (checkPush_eq_none.1 hpush)
    have hne : 0 ≠ s.sp + 1 := Fin.ne_of_val_ne (hval ▸ (Nat.succ_ne_zero _).symm)
    exact (s.slot_push s.pc 0).trans (if_neg hne)
  · exact execEffect_slot s (not_exists.1 hcall) 0

theorem execEffect_byte {i : Instr} (s : State) (hldB : ∀ x, i ≠ .ldB x) (hldMemVx : ∀ x, i ≠ .ldMemVx x) (a : Nat) :
    (execEffect i s).byte a = s.byte a := by
  cases i with
  | ldB x => exact absurd rfl (hldB x)
  | ldMemVx x => exact absurd rfl (hldMemVx x)
  | ldVxMem x => simp [execEffect]
  | _ => rfl

theorem execEffect_pixel {i : Instr} (s : State) (hcls : i ≠ .cls) (hdrw : ∀ x y n, i ≠ .drw x y n) (r : Fin 32) (c : Fin 64) :
    (execEffect i s).pixel r c = s.pixel r c := by
  cases i with
  | cls => exact absurd rfl hcls
  | drw x y n => exact absurd rfl (hdrw x y n)
  | ldVxMem x => simp [execEffect]
  | _ => rfl

theorem execEffect_key (i : Instr) (s : State) (k : Fin 16) : (execEffect i s).key k = s.key k :=
  congrArg (fun keys : Vector Bool 16 => keys[k.val]) (execEffect_keys i s)

theorem execEffect_draws {i : Instr} (s : State) (hrnd : ∀ x kk, i ≠ .rnd x kk) : (execEffect i s).draws = s.draws := by
  cases i with
  | rnd x kk => exact absurd rfl (hrnd x kk)
  | ldVxMem x => simp [execEffect]
  | _ => rfl

/-- Settles O52: an instruction that goes on leaves its effect, and each piece of the effect is written by its own instructions. -/
theorem eachPieceOfStateHasItsWriters : Obligations.EachPieceOfStateHasItsWriters := by
  intro i s t h
  obtain ⟨hcheck, rfl⟩ := exec_eq_next.1 h
  exact ⟨execEffect_index s, execEffect_dt s, execEffect_st s, execEffect_sp s, execEffect_slot s, execEffect_slot_zero hcheck,
    execEffect_byte s, execEffect_pixel s, execEffect_wait s, execEffect_key i s, execEffect_cfg i s, execEffect_draws s⟩

end Sys2Proof.Machine
end
